-- ==== Sys2Proof/Word.lean ====
section
/-! DEFINITION. The word types of the CHIP-8 core (spec/00_scope.md R6, R9, R10): every value is an
unsigned bit vector of the width the spec gives it. -/

namespace Sys2Proof

/-- A memory cell, a general register, a timer: 8 bits, unsigned (R6 `CELL_WIDTH`, `TIMER_WIDTH`). -/
abbrev Byte := BitVec 8

/-- An instruction word, the index register, the program counter, a stack entry: 16 bits, unsigned (R6). -/
abbrev Word := BitVec 16

/-- A 4-bit field: a register number `x` or `y`, a row count `n`, a logical key (R9, R15). -/
abbrev Nibble := BitVec 4

/-- The 12-bit address field `nnn` (R60). -/
abbrev Addr12 := BitVec 12

end Sys2Proof
end

