-- ==== Sys2Proof/Syntax.lean ====
section
/-! DEFINITION. The 34 instructions, one constructor for each row of the opcode map
(spec/30_encoding.md R62, spec/opcode_table.json), with the fields its format names (R58, R59). -/

namespace Sys2Proof

/-- An instruction with its operand fields. The names follow R62's mnemonics; the hex pattern in each
docstring is the normative name (R70). `shr` and `shl` keep their `y`, which their patterns carry and
their meanings never read (R59, R98, R100). -/
inductive Instr where
  /-- 00E0 CLS (R76) -/
  | cls
  /-- 00EE RET (R81) -/
  | ret
  /-- 1nnn JP nnn (R82) -/
  | jp (nnn : Addr12)
  /-- 2nnn CALL nnn (R83) -/
  | call (nnn : Addr12)
  /-- 3xkk SE Vx, kk (R84) -/
  | seImm (x : Nibble) (kk : Byte)
  /-- 4xkk SNE Vx, kk (R85) -/
  | sneImm (x : Nibble) (kk : Byte)
  /-- 5xy0 SE Vx, Vy (R86) -/
  | seReg (x y : Nibble)
  /-- 6xkk LD Vx, kk (R90) -/
  | ldImm (x : Nibble) (kk : Byte)
  /-- 7xkk ADD Vx, kk (R91) -/
  | addImm (x : Nibble) (kk : Byte)
  /-- 8xy0 LD Vx, Vy (R92) -/
  | ldReg (x y : Nibble)
  /-- 8xy1 OR Vx, Vy (R93) -/
  | orReg (x y : Nibble)
  /-- 8xy2 AND Vx, Vy (R94) -/
  | andReg (x y : Nibble)
  /-- 8xy3 XOR Vx, Vy (R95) -/
  | xorReg (x y : Nibble)
  /-- 8xy4 ADD Vx, Vy (R96) -/
  | addReg (x y : Nibble)
  /-- 8xy5 SUB Vx, Vy (R97) -/
  | sub (x y : Nibble)
  /-- 8xy6 SHR Vx (R98) -/
  | shr (x y : Nibble)
  /-- 8xy7 SUBN Vx, Vy (R99) -/
  | subn (x y : Nibble)
  /-- 8xyE SHL Vx (R100) -/
  | shl (x y : Nibble)
  /-- 9xy0 SNE Vx, Vy (R87) -/
  | sneReg (x y : Nibble)
  /-- Annn LD I, nnn (R103) -/
  | ldI (nnn : Addr12)
  /-- Bnnn JP V0, nnn (R88) -/
  | jpV0 (nnn : Addr12)
  /-- Cxkk RND Vx, kk (R101) -/
  | rnd (x : Nibble) (kk : Byte)
  /-- Dxyn DRW Vx, Vy, n (R77) -/
  | drw (x y n : Nibble)
  /-- Ex9E SKP Vx (R109) -/
  | skp (x : Nibble)
  /-- ExA1 SKNP Vx (R110) -/
  | sknp (x : Nibble)
  /-- Fx07 LD Vx, DT (R111) -/
  | ldVxDT (x : Nibble)
  /-- Fx0A LD Vx, K (R112) -/
  | ldVxK (x : Nibble)
  /-- Fx15 LD DT, Vx (R113) -/
  | ldDTVx (x : Nibble)
  /-- Fx18 LD ST, Vx (R114) -/
  | ldSTVx (x : Nibble)
  /-- Fx1E ADD I, Vx (R104) -/
  | addI (x : Nibble)
  /-- Fx29 LD F, Vx (R105) -/
  | ldF (x : Nibble)
  /-- Fx33 LD B, Vx (R106) -/
  | ldB (x : Nibble)
  /-- Fx55 LD [I], Vx (R107) -/
  | storeRegs (x : Nibble)
  /-- Fx65 LD Vx, [I] (R108) -/
  | loadRegs (x : Nibble)
  deriving DecidableEq, Repr

end Sys2Proof
end

