-- ==== Sys2Proof/Config.lean ====
section
/-! DEFINITION. What stays fixed while the core runs (sizes, R6; session parameters, R7) and the free
values of the environment's draws (R8). The parameters' DEFAULT values stand in Machine/Defaults.lean. -/

namespace Sys2Proof

/-- `MEM_SIZE` (R6, R38): 4096 cells, addresses 0x000-0xFFF. -/
abbrev Config.memSize : Nat := 4096

/-- `PROGRAM_START` (R6, R41): the first fetch address and the load address of the ROM. -/
abbrev Config.programStart : Nat := 0x200

/-- The largest ROM that fits between 0x200 and 0xFFF (R142, R144). -/
abbrev Config.maxRomBytes : Nat := 3584

/-- `FONT_BYTES` (R6): 16 glyphs of 5 bytes. -/
abbrev Config.fontBytes : Nat := 80

/-- The session parameters that the running core consults (R7). `FONT_TABLE` is consulted by reset
alone and is an argument there; `BATCH_SIZE` is an argument of each `cycle`. -/
structure Params where
  /-- `STACK_DEPTH` (R7, R20; an OPEN parameter, D6): `none` is `unbounded`. -/
  stackDepth : Option Nat
  /-- `PROTECT_LOW_MEMORY` (R7, R44, D9). -/
  protectLowMemory : Bool
  deriving DecidableEq, Repr

/-- FREE VALUE (R8a, R125, D14): the host's answer to the query with this draw number about this key,
when the state holds no answer for it. It has no body: nothing can be proved of it. Log entry 3. -/
opaque Config.freeKeyAnswer : Nat → Nibble → Bool

/-- FREE VALUE (R8b, R128, D15): the byte of the random draw with this number, when the state holds
no byte for it. It has no body: nothing can be proved of it. Log entry 3. -/
opaque Config.freeRandomByte : Nat → Byte

end Sys2Proof
end

