-- ==== Sys2Proof/Machine/Defaults.lean ====
section
/-! DEFINITION. The default values of the session parameters (spec/00_scope.md R7): what a session
gets when the host passes nothing else. -/

namespace Sys2Proof.Machine

/-- The parameters of the reset state. `STACK_DEPTH` 16 is the conventional value (R7, G3: PRESUMED, log
entry 4); `PROTECT_LOW_MEMORY` is R7's default. -/
def defaultParams : Params :=
  { stackDepth := some 16, protectLowMemory := true }

/-- `BATCH_SIZE`'s default (R7, R130). -/
def defaultBatchSize : Nat := 10

/-- R143's glyphs 0-7, top row first (PRESUMED by the spec, G2; log entry 2). -/
def fontGlyphsLow : List (List Byte) :=
  [[0xF0, 0x90, 0x90, 0x90, 0xF0],
   [0x20, 0x60, 0x20, 0x20, 0x70],
   [0xF0, 0x10, 0xF0, 0x80, 0xF0],
   [0xF0, 0x10, 0xF0, 0x10, 0xF0],
   [0x90, 0x90, 0xF0, 0x10, 0x10],
   [0xF0, 0x80, 0xF0, 0x10, 0xF0],
   [0xF0, 0x80, 0xF0, 0x90, 0xF0],
   [0xF0, 0x10, 0x20, 0x40, 0x40]]

/-- R143's glyphs 8-F. -/
def fontGlyphsHigh : List (List Byte) :=
  [[0xF0, 0x90, 0xF0, 0x90, 0xF0],
   [0xF0, 0x90, 0xF0, 0x10, 0xF0],
   [0xF0, 0x90, 0xF0, 0x90, 0x90],
   [0xE0, 0x90, 0xE0, 0x90, 0xE0],
   [0xF0, 0x80, 0x80, 0x80, 0xF0],
   [0xE0, 0x90, 0x90, 0x90, 0xE0],
   [0xF0, 0x80, 0xF0, 0x80, 0xF0],
   [0xF0, 0x80, 0xF0, 0x80, 0x80]]

/-- `FONT_TABLE`'s default: 80 bytes, glyph d at 5d (R143). -/
def defaultFont : List Byte :=
  (fontGlyphsLow ++ fontGlyphsHigh).flatten

end Sys2Proof.Machine
end

