-- ==== Sys2Proof/Machine/State.lean ====
section
/-! DEFINITION. The state of the core (spec/10_state.md R14) as plain data, the reasons a step can
stop, and the state right after reset (R32). -/

namespace Sys2Proof.Machine

/-- The run state (R25). -/
inductive RunState where
  | running
  | waitingForKey
  | halted
  deriving DecidableEq, Repr

/-- The eight fault kinds (R117-R123). -/
inductive FaultKind where
  | unknownOpcode
  | stackUnderflow
  | stackOverflow
  | fetchOutOfRange
  | readOutOfRange
  | writeOutOfRange
  | writeProtected
  | invalidKey
  deriving DecidableEq, Repr

/-- The source's two classes of program-caused errors (R115). -/
inductive FaultClass where
  | malformedProgram
  | addressOverflow
  deriving DecidableEq, Repr

/-- The fault record `{kind, code, pc_of_insn, word, addr}` (R28, R116). `code` is a function of `kind`
(R123) and is computed, not stored twice: `FaultRecord.code`, log entry 10. -/
structure FaultRecord where
  kind : FaultKind
  /-- The address the offending instruction was fetched from. -/
  pcOfInsn : Word
  /-- The instruction word; absent for `FetchOutOfRange`. -/
  word : Option Word
  /-- The failing address, an exact number (R42), for a memory or fetch fault. -/
  addr : Option Nat
  deriving DecidableEq, Repr

/-- Memory (R38): the cells that differ from what an unlisted address reads as (`resetByte`), addresses
strictly rising. -/
abbrev Memory := List Host.Cell

/-- The framebuffer (R27): 32 rows of 64 cells; cell `FB[y][x]` is bit x of row y. Log entry 12. -/
abbrev Framebuffer := Vector (BitVec 64) 32

/-- The environment's answers to the draws the core makes inside a step (R8a, R8b). MODEL'S OWN: the
answers that the host has lined up, oldest first, and the number of draws taken. A draw takes the
oldest answer; with none lined up it is the free value of that draw number. Log entry 3. -/
structure Inputs where
  keyAnswers : List Bool
  randomBytes : List Byte
  drawCount : Nat
  deriving DecidableEq, Repr

/-- R14's tuple, and beside it the model's own `params` (R7, log entry 4) and `inputs` (R8, log entry
3). -/
structure State where
  /-- V0-VF (R15); VF is register 15 (R16). -/
  v : Vector Byte 16
  /-- The index register I (R18). -/
  i : Word
  /-- The program counter (R19). -/
  pc : Word
  /-- The return addresses, oldest first: the last is the top (R20, R22). -/
  stack : List Word
  /-- The delay timer DT (R24). -/
  dt : Byte
  /-- The sound timer ST (R24). -/
  st : Byte
  /-- `run` (R25). -/
  run : RunState
  /-- `wait_x`: the destination of a pending Fx0A (R26). -/
  waitX : Nibble
  /-- `mem` (R38). -/
  mem : Memory
  /-- `FB` (R27). -/
  fb : Framebuffer
  /-- `fault` (R28). -/
  fault : Option FaultRecord
  /-- MODEL'S OWN: the session's parameters (R7). No operation but reset changes them. -/
  params : Params
  /-- MODEL'S OWN: the environment's draws (R8). -/
  inputs : Inputs
  deriving DecidableEq, Repr

/-- The reasons the machine answers no next state. A fault the SPEC names (R117-R123) is not among them:
raising it is a next state with `fault` set and `run` Halted (R116). -/
inductive Fault where
  /-- The core is Halted, or a fault is recorded: there is no step, cycle or resume (R57, R127, R130,
  R136, D27). Raised by `step`, `cycle` and `resume`. Safe: nothing is claimed of a halted core. -/
  | halted (record : Option FaultRecord)
  deriving DecidableEq, Repr

/-- The reasons an operation is turned away. -/
inductive Refusal where
  /-- An arm of `exec` without a meaning. No arm is left so. Safe. -/
  | notModelled (mnemonic : String)
  /-- `reset` with a ROM of more than 3584 bytes (R144): no session starts. Safe. -/
  | romTooLong (length : Nat)
  /-- `reset` with a `FONT_TABLE` that is not 80 bytes (R6, R143; log entry 21). Safe. -/
  | badFontTable (length : Nat)
  /-- `reset` with `STACK_DEPTH` 0, which R7 does not allow (log entry 21). Safe. -/
  | badParams
  /-- `resume` with a key above 0xF (R127). Safe. -/
  | badKey (k : Nat)
  deriving DecidableEq, Repr

/-- The machine right after reset (R32, R142) with the default parameters, the default font and a ROM of
length 0: memory has nothing listed. Log entries 1, 2 and 4 name the values that the source does not
give. -/
def State.reset : State where
  v := Vector.replicate 16 0
  i := 0
  pc := 0x200
  stack := []
  dt := 0
  st := 0
  run := .running
  waitX := 0
  mem := []
  fb := Vector.replicate 32 0
  fault := none
  params := defaultParams
  inputs := { keyAnswers := [], randomBytes := [], drawCount := 0 }

end Sys2Proof.Machine
end

