-- ==== Sys2Proof/WellFormed.lean ====
section
/-! DEFINITION. The checks of the spec on what the host hands the core: an instruction's operands
(R60), the session parameters (R7), the font table (R143), the ROM (R144) and a key (R127). -/

namespace Sys2Proof

/-- Every operand lies in the range R60 gives its field: register numbers and `n` 0-15, `kk` 0-255,
`nnn` 0x000-0xFFF. The operand types carry these bounds, so every term of `Instr` passes
(`Laws.instr_wf`); the check states the ranges. -/
def Instr.wf : Instr → Bool
  | .cls | .ret => true
  | .jp nnn | .call nnn | .ldI nnn | .jpV0 nnn => nnn.toNat ≤ 0xFFF
  | .seImm x kk | .sneImm x kk | .ldImm x kk | .addImm x kk | .rnd x kk =>
    x.toNat ≤ 0xF && kk.toNat ≤ 0xFF
  | .seReg x y | .ldReg x y | .orReg x y | .andReg x y | .xorReg x y | .addReg x y | .sub x y
  | .shr x y | .subn x y | .shl x y | .sneReg x y => x.toNat ≤ 0xF && y.toNat ≤ 0xF
  | .drw x y n => x.toNat ≤ 0xF && y.toNat ≤ 0xF && n.toNat ≤ 0xF
  | .skp x | .sknp x | .ldVxDT x | .ldVxK x | .ldDTVx x | .ldSTVx x | .addI x | .ldF x | .ldB x
  | .storeRegs x | .loadRegs x => x.toNat ≤ 0xF

/-- `STACK_DEPTH` is a POSITIVE natural number or `unbounded` (R7, D6). -/
def Params.wf (p : Params) : Bool :=
  p.stackDepth != some 0

/-- `FONT_TABLE` is exactly 80 bytes (R6, R143). -/
def fontWf (font : List Byte) : Bool :=
  font.length == Config.fontBytes

/-- A ROM fits between 0x200 and 0xFFF (R142 `require L <= 3584`, R144). -/
def romWf (rom : List Byte) : Bool :=
  rom.length ≤ Config.maxRomBytes

/-- A logical key is one of the 16 values 0x0-0xF (R6 `NUM_KEYS`, R127). -/
def keyWf (k : Nat) : Bool :=
  k ≤ 0xF

end Sys2Proof
end

