-- ==== Sys2Proof/Machine/Ops.lean ====
section
/-! DEFINITION. The named operations over the state: memory (spec/20_memory.md R38-R45), registers
(R15), the stack (R20-R23), the draws (R125, R128), fetching (R57), and raising a fault (R116), the one
shared operation by which every error is taken. There is no return from a fault (R136). -/

namespace Sys2Proof.Machine

/-! ### Memory -/

/-- What an unlisted address reads as: the default font at 0x000-0x04F (R143) and 0x00 elsewhere (R32,
D22). Log entry 2. -/
def resetByte (a : Nat) : Byte :=
  defaultFont.getD a 0

/-- `mem[a]` (R38). The range check is R43's and R44's, in `checkRead` and `checkWrite`. -/
def Memory.get : Memory → Nat → Byte
  | [], a => resetByte a
  | (k, b) :: m, a => if k = a then b else Memory.get m a

/-- `mem[a] <- b` (R44), keeping the canonical form. -/
def Memory.set : Memory → Nat → Byte → Memory
  | [], a, b => if b = resetByte a then [] else [(a, b)]
  | (k, c) :: m, a, b =>
    if a < k then if b = resetByte a then (k, c) :: m else (a, b) :: (k, c) :: m
    else if a = k then if b = resetByte a then m else (a, b) :: m
    else (k, c) :: Memory.set m a b

/-- The canonical form from address `lo` on: addresses rise strictly, lie below 4096, and no cell holds
what its address reads as unlisted. -/
def Memory.wfFrom : Nat → Memory → Bool
  | _, [] => true
  | lo, (a, b) :: m => lo ≤ a && a < Config.memSize && b != resetByte a && Memory.wfFrom (a + 1) m

/-- The canonical form of memory. -/
def Memory.wf (m : Memory) : Bool :=
  Memory.wfFrom 0 m

/-- The `n` bytes at `base`, `base + 1`, ... (R74, R108). -/
def Memory.readBlock (m : Memory) (base n : Nat) : List Byte :=
  (List.range n).map fun k => m.get (base + k)

/-- Stores the bytes at `base`, `base + 1`, ... in that order (R106, R107, R142). -/
def Memory.writeBlock (m : Memory) (base : Nat) : List Byte → Memory
  | [] => m
  | b :: bs => Memory.writeBlock (m.set base b) (base + 1) bs

/-- What R43 checks of a read: an address above 0xFFF raises `ReadOutOfRange`. -/
def checkRead (a : Nat) : Option FaultKind :=
  if a > 0xFFF then some .readOutOfRange else none

/-- What R44 checks of a write, the range before the protection (R124). -/
def checkWrite (protectLow : Bool) (a : Nat) : Option FaultKind :=
  if a > 0xFFF then some .writeOutOfRange
  else if protectLow && decide (a ≤ 0x1FF) then some .writeProtected
  else none

/-- The first address of `base`, ..., `base + n - 1` that fails a check, with the fault it raises (R45:
every address is checked, ascending, before anything is written). -/
def firstFailure (check : Nat → Option FaultKind) (base : Nat) : Nat → Option (FaultKind × Nat)
  | 0 => none
  | n + 1 =>
    match check base with
    | some kind => some (kind, base)
    | none => firstFailure check (base + 1) n

/-! ### Registers -/

/-- VF, register 15 (R16). -/
def vf : Nibble := 0xF

/-- `V[r]` (R15). -/
def State.getV (s : State) (r : Nibble) : Byte :=
  s.v[r.toNat]'r.isLt

/-- `V[r] <- b` (R15). -/
def State.setV (s : State) (r : Nibble) (b : Byte) : State :=
  { s with v := s.v.set r.toNat b r.isLt }

/-- `V[k] <- b` for successive k from `k` on (R108). -/
def loadV (v : Vector Byte 16) (k : Nat) : List Byte → Vector Byte 16
  | [] => v
  | b :: bs => loadV (v.setIfInBounds k b) (k + 1) bs

/-- `V[0..x]`, the registers a block instruction moves (R107). -/
def State.firstRegs (s : State) (x : Nibble) : List Byte :=
  s.v.toList.take (x.toNat + 1)

/-- `I <- w` (R18). -/
def State.setI (s : State) (w : Word) : State :=
  { s with i := w }

/-- `pc <- w` (R19). -/
def State.setPc (s : State) (w : Word) : State :=
  { s with pc := w }

/-- `DT <- b` (R24). -/
def State.setDT (s : State) (b : Byte) : State :=
  { s with dt := b }

/-- `ST <- b` (R24). -/
def State.setST (s : State) (b : Byte) : State :=
  { s with st := b }

/-- The memory after an instruction's stores. -/
def State.setMem (s : State) (m : Memory) : State :=
  { s with mem := m }

/-- The framebuffer after an instruction's drawing. -/
def State.setFb (s : State) (fb : Framebuffer) : State :=
  { s with fb := fb }

/-- The stack after a push or a pop. -/
def State.setStack (s : State) (stack : List Word) : State :=
  { s with stack := stack }

/-- `pc <- (pc + 2) mod 65536` when the condition holds (R84-R87, R109, R110). -/
def State.skipIf (s : State) (c : Bool) : State :=
  s.setPc (if c then s.pc + 2 else s.pc)

/-! ### Raising a fault -/

/-- The fault's code (R117-R123). -/
def FaultKind.code : FaultKind → Nat
  | .unknownOpcode => 1
  | .stackUnderflow => 2
  | .stackOverflow => 3
  | .fetchOutOfRange => 4
  | .readOutOfRange => 5
  | .writeOutOfRange => 6
  | .writeProtected => 7
  | .invalidKey => 8

/-- The fault's class (R115, R123's table). -/
def FaultKind.faultClass : FaultKind → FaultClass
  | .unknownOpcode | .stackUnderflow | .stackOverflow | .writeProtected | .invalidKey =>
    .malformedProgram
  | .fetchOutOfRange | .readOutOfRange | .writeOutOfRange => .addressOverflow

/-- The record's `code` field (R116: `code = code(K)`). -/
def FaultRecord.code (r : FaultRecord) : Nat :=
  r.kind.code

/-- `raise` (R116): records the fault and halts; nothing else changes. Every error of the core is taken
by this operation. -/
def State.raise (s : State) (r : FaultRecord) : State :=
  { s with fault := some r, run := .halted }

/-- `a`, the address the executing instruction was fetched from: pc already holds a + 2 (R13, R57).
DEDUCED, log entry 9. -/
def State.insnAddr (s : State) : Word :=
  s.pc - 2

/-- `raise` inside an instruction: the record names its fetch address and its word (R116). -/
def State.raiseIn (s : State) (i : Instr) (kind : FaultKind) (addr : Option Nat) : State :=
  s.raise { kind := kind, pcOfInsn := s.insnAddr, word := some (encode i), addr := addr }

/-! ### The stack -/

/-- Does the stack hold `STACK_DEPTH` entries (R22)? Never, when it is `unbounded`. -/
def State.stackFull (s : State) : Bool :=
  match s.params.stackDepth with
  | none => false
  | some d => s.stack.length == d

/-- `Push(v)` on a stack that is not full (R22). -/
def State.push (s : State) (w : Word) : State :=
  s.setStack (s.stack ++ [w])

/-! ### The environment's draws -/

/-- `IsPressed(k)` (R125): the host's answer, and the state after the draw. -/
def State.queryKey (s : State) (k : Nibble) : Bool × State :=
  match s.inputs.keyAnswers with
  | [] =>
    (Config.freeKeyAnswer s.inputs.drawCount k,
      { s with inputs := { s.inputs with drawCount := s.inputs.drawCount + 1 } })
  | b :: rest =>
    (b, { s with inputs := { s.inputs with keyAnswers := rest, drawCount := s.inputs.drawCount + 1 } })

/-- `RandomByte()` (R128): the byte drawn, and the state after the draw. -/
def State.randomByte (s : State) : Byte × State :=
  match s.inputs.randomBytes with
  | [] =>
    (Config.freeRandomByte s.inputs.drawCount,
      { s with inputs := { s.inputs with drawCount := s.inputs.drawCount + 1 } })
  | b :: rest =>
    (b, { s with inputs := { s.inputs with randomBytes := rest, drawCount := s.inputs.drawCount + 1 } })

/-! ### Fetching -/

/-- What a fetch gives (R57). -/
inductive Fetched where
  | word (w : Word)
  | outOfRange (addr : Nat)
  deriving DecidableEq, Repr

/-- The fetch of R57: two bytes at pc and pc + 1, big-endian; when they are not both in range, the first
address above 0xFFF. -/
def State.fetch (s : State) : Fetched :=
  if s.pc.toNat + 1 > 0xFFF then
    .outOfRange (if s.pc.toNat > 0xFFF then s.pc.toNat else s.pc.toNat + 1)
  else .word (wordOfBytes (s.mem.get s.pc.toNat) (s.mem.get (s.pc.toNat + 1)))

/-- The PC advance before dispatch (R57). -/
def State.advancePc (s : State) : State :=
  s.setPc (s.pc + 2)

end Sys2Proof.Machine
end

