-- ==== Sys2Proof/Machine/Flags.lean ====
section
/-! DEFINITION. The values that VF takes as the flag register (spec/10_state.md R16). -/

namespace Sys2Proof.Machine

/-- A flag as VF holds it: 1 or 0 (R16). -/
def flagByte (c : Bool) : Byte :=
  if c then 1 else 0

/-- 8xy4: 1 iff the exact sum exceeds 255 (R96, R102). -/
def carryFlag (sum : Nat) : Byte :=
  flagByte (decide (sum > 255))

/-- 8xy5, 8xy7: 1 iff minuend > subtrahend, strictly (R97, R99, R102). -/
def notBorrowFlag (minuend subtrahend : Byte) : Byte :=
  flagByte (decide (minuend.toNat > subtrahend.toNat))

/-- 8xy6: the bit shifted out on the right, `V[x] AND 1` (R98). -/
def lowBitFlag (b : Byte) : Byte :=
  b &&& 1

/-- 8xyE: the bit shifted out on the left, `(V[x] >> 7) AND 1` (R100, C5). -/
def highBitFlag (b : Byte) : Byte :=
  (b >>> 7) &&& 1

/-- Dxyn: 1 iff some pixel of the sprite collided (R77). -/
def collisionFlag (collided : Bool) : Byte :=
  flagByte collided

end Sys2Proof.Machine
end

