-- ==== Sys2Proof/Machine/Operands.lean ====
section
/-! DEFINITION. The operand forms that the instructions compute from fields and registers: jump targets,
index values, BCD digits, exact sums (spec/30_encoding.md R60, R88, R96, R103-R106). -/

namespace Sys2Proof.Machine

/-- `nnn` as an address or a value of I, unscaled (R60, R82, R103 `zext_16`). -/
def addressOf (nnn : Addr12) : Word :=
  nnn.setWidth 16

/-- Bnnn's target `(nnn + V[0]) mod 65536` (R88). -/
def offsetTarget (nnn : Addr12) (v0 : Byte) : Word :=
  BitVec.ofNat 16 (nnn.toNat + v0.toNat)

/-- Fx1E's `(I + V[x]) mod 65536` (R104). -/
def indexSum (i : Word) (b : Byte) : Word :=
  BitVec.ofNat 16 (i.toNat + b.toNat)

/-- Fx29's `V[x] * 5`, no masking (R105). -/
def glyphAddress (b : Byte) : Word :=
  BitVec.ofNat 16 (b.toNat * 5)

/-- Fx33's digits: hundreds, tens, ones (R106). -/
def bcdDigits (b : Byte) : List Byte :=
  [BitVec.ofNat 8 (b.toNat / 100), BitVec.ofNat 8 (b.toNat / 10 % 10), BitVec.ofNat 8 (b.toNat % 10)]

/-- 8xy4's latched exact sum, 0..510 (R96). -/
def exactSum (a b : Byte) : Nat :=
  a.toNat + b.toNat

end Sys2Proof.Machine
end

