-- ==== Sys2Proof/Machine/Alu.lean ====
section
/-! DEFINITION. The register and ALU family: 6xkk, 7xkk, 8xy0-8xy7, 8xyE, Cxkk (spec/42_alu.md).
Statements run in the order written and each read sees the writes before it (R12, D2): in 8xy5-8xyE the
result reads V[x] and V[y] AFTER the write of VF. -/

namespace Sys2Proof.Machine

/-- 6xkk LD (R90). -/
def execLdImm (x : Nibble) (kk : Byte) (s : State) : Host.Outcome State Fault Refusal :=
  .next (s.setV x kk)

/-- 7xkk ADD (R91): no flag. -/
def execAddImm (x : Nibble) (kk : Byte) (s : State) : Host.Outcome State Fault Refusal :=
  .next (s.setV x (s.getV x + kk))

/-- 8xy0 LD (R92). -/
def execLdReg (x y : Nibble) (s : State) : Host.Outcome State Fault Refusal :=
  .next (s.setV x (s.getV y))

/-- 8xy1 OR (R93): no flag. -/
def execOrReg (x y : Nibble) (s : State) : Host.Outcome State Fault Refusal :=
  .next (s.setV x (s.getV x ||| s.getV y))

/-- 8xy2 AND (R94): no flag. -/
def execAndReg (x y : Nibble) (s : State) : Host.Outcome State Fault Refusal :=
  .next (s.setV x (s.getV x &&& s.getV y))

/-- 8xy3 XOR (R95): no flag. -/
def execXorReg (x y : Nibble) (s : State) : Host.Outcome State Fault Refusal :=
  .next (s.setV x (s.getV x ^^^ s.getV y))

/-- 8xy4 ADD (R96): the sum is latched, then VF, then V[x]. -/
def execAddReg (x y : Nibble) (s : State) : Host.Outcome State Fault Refusal :=
  let sum := exactSum (s.getV x) (s.getV y)
  .next ((s.setV vf (carryFlag sum)).setV x (BitVec.ofNat 8 sum))

/-- 8xy5 SUB (R97). -/
def execSub (x y : Nibble) (s : State) : Host.Outcome State Fault Refusal :=
  let s1 := s.setV vf (notBorrowFlag (s.getV x) (s.getV y))
  .next (s1.setV x (s1.getV x - s1.getV y))

/-- 8xy6 SHR (R98): `y` is not read. -/
def execShr (x _y : Nibble) (s : State) : Host.Outcome State Fault Refusal :=
  let s1 := s.setV vf (lowBitFlag (s.getV x))
  .next (s1.setV x (s1.getV x >>> 1))

/-- 8xy7 SUBN (R99). -/
def execSubn (x y : Nibble) (s : State) : Host.Outcome State Fault Refusal :=
  let s1 := s.setV vf (notBorrowFlag (s.getV y) (s.getV x))
  .next (s1.setV x (s1.getV y - s1.getV x))

/-- 8xyE SHL (R100): the flag is bit 7 (C5); `y` is not read. -/
def execShl (x _y : Nibble) (s : State) : Host.Outcome State Fault Refusal :=
  let s1 := s.setV vf (highBitFlag (s.getV x))
  .next (s1.setV x (s1.getV x <<< 1))

/-- Cxkk RND (R101): one draw, masked. -/
def execRnd (x : Nibble) (kk : Byte) (s : State) : Host.Outcome State Fault Refusal :=
  let q := s.randomByte
  .next (q.2.setV x (q.1 &&& kk))

end Sys2Proof.Machine
end

