-- ==== Sys2Proof/Machine/Drawing.lean ====
section
/-! DEFINITION. The XOR compositor and the collision detector of the framebuffer (spec/40_display.md
R72-R75). -/

namespace Sys2Proof.Machine

/-- `FB[y mod 32][x mod 64]` (R27, R72: coordinates wrap). -/
def Framebuffer.cell (fb : Framebuffer) (x y : Nat) : Bool :=
  (fb[y % 32]'(Nat.mod_lt _ (by decide))).getLsbD (x % 64)

/-- One pixel's bit as a row: bit `x mod 64` set when the pixel is (R72). -/
def pixelMask (x : Nat) (b : Bool) : BitVec 64 :=
  if b then BitVec.twoPow 64 (x % 64) else 0

/-- `DrawPixel(px, py, bit)` (R72): XORs the bit into the wrapped cell; the second component is the
collision, `prev == 1 and bit == 1` (C3). -/
def drawPixel (fb : Framebuffer) (px py : Nat) (b : Bool) : Framebuffer × Bool :=
  (fb.set (py % 32) (fb[py % 32]'(Nat.mod_lt _ (by decide)) ^^^ pixelMask px b)
      (Nat.mod_lt _ (by decide)),
    fb.cell px py && b)

/-- The sprite's bit in column `col` of a row byte: bit 7 is leftmost (R74, R77). -/
def spriteBit (row : Byte) (col : Nat) : Bool :=
  row.getLsbD (7 - col)

/-- The columns `col`, ..., `col + n - 1` of one sprite row, left to right, collisions ORed (R77). -/
def drawColumns (row : Byte) (x0 y : Nat) : Nat → Nat → Framebuffer × Bool → Framebuffer × Bool
  | _, 0, acc => acc
  | col, n + 1, acc =>
    let q := drawPixel acc.1 (x0 + col) y (spriteBit row col)
    drawColumns row x0 y (col + 1) n (q.1, acc.2 || q.2)

/-- The rows of a sprite, top row first, each 8 columns wide (R74, R77). -/
def drawRows (x0 : Nat) : Nat → List Byte → Framebuffer × Bool → Framebuffer × Bool
  | _, [], acc => acc
  | y, row :: rows, acc => drawRows x0 (y + 1) rows (drawColumns row x0 y 0 8 acc)

/-- Dxyn's loop from an unset collision (R77). -/
def drawSprite (fb : Framebuffer) (x0 y0 : Nat) (rows : List Byte) : Framebuffer × Bool :=
  drawRows x0 y0 rows (fb, false)

/-- `Clear()` (R73). -/
def clearedFb : Framebuffer :=
  Vector.replicate 32 0

/-- The render port's read: all 2048 cells in row-major order, cell number `y * 64 + x` (R27, R75). -/
def Framebuffer.cells (fb : Framebuffer) : List Bool :=
  (List.range 2048).map fun k => fb.cell (k % 64) (k / 64)

end Sys2Proof.Machine
end

