-- ==== Sys2Proof/Machine/Display.lean ====
section
/-! DEFINITION. The display family: 00E0 and Dxyn (spec/40_display.md). -/

namespace Sys2Proof.Machine

/-- 00E0 CLS (R76). -/
def execCls (s : State) : Host.Outcome State Fault Refusal :=
  .next (s.setFb clearedFb)

/-- Dxyn DRW (R77): V[x], V[y] and I are latched, every read is checked, the sprite is drawn, and VF is
written once, last (D16). -/
def execDrw (x y n : Nibble) (s : State) : Host.Outcome State Fault Refusal :=
  match firstFailure checkRead s.i.toNat n.toNat with
  | some (kind, addr) => .next (s.raiseIn (.drw x y n) kind (some addr))
  | none =>
    let q := drawSprite s.fb (s.getV x).toNat (s.getV y).toNat (s.mem.readBlock s.i.toNat n.toNat)
    .next ((s.setFb q.1).setV vf (collisionFlag q.2))

end Sys2Proof.Machine
end

