-- ==== Sys2Proof/Machine/Flow.lean ====
section
/-! DEFINITION. The control-flow family: 00EE, 1nnn, 2nnn, 3xkk, 4xkk, 5xy0, 9xy0, Bnnn
(spec/41_flow.md). pc already holds a + 2 (R13). -/

namespace Sys2Proof.Machine

/-- 00EE RET (R81, `Pop` R23): an empty stack raises `StackUnderflow` and changes nothing. -/
def execRet (s : State) : Host.Outcome State Fault Refusal :=
  match s.stack.getLast? with
  | none => .next (s.raiseIn .ret .stackUnderflow none)
  | some w => .next ((s.setStack s.stack.dropLast).setPc w)

/-- 1nnn JP (R82). -/
def execJp (nnn : Addr12) (s : State) : Host.Outcome State Fault Refusal :=
  .next (s.setPc (addressOf nnn))

/-- 2nnn CALL (R83, `Push` R22): pushes a + 2; a full stack raises `StackOverflow` (D6). -/
def execCall (nnn : Addr12) (s : State) : Host.Outcome State Fault Refusal :=
  if s.stackFull then .next (s.raiseIn (.call nnn) .stackOverflow none)
  else .next ((s.push s.pc).setPc (addressOf nnn))

/-- 3xkk SE (R84). -/
def execSeImm (x : Nibble) (kk : Byte) (s : State) : Host.Outcome State Fault Refusal :=
  .next (s.skipIf (s.getV x == kk))

/-- 4xkk SNE (R85). -/
def execSneImm (x : Nibble) (kk : Byte) (s : State) : Host.Outcome State Fault Refusal :=
  .next (s.skipIf (s.getV x != kk))

/-- 5xy0 SE (R86). -/
def execSeReg (x y : Nibble) (s : State) : Host.Outcome State Fault Refusal :=
  .next (s.skipIf (s.getV x == s.getV y))

/-- 9xy0 SNE (R87). -/
def execSneReg (x y : Nibble) (s : State) : Host.Outcome State Fault Refusal :=
  .next (s.skipIf (s.getV x != s.getV y))

/-- Bnnn JP V0 (R88): always V0, the sum is not reduced mod 4096. -/
def execJpV0 (nnn : Addr12) (s : State) : Host.Outcome State Fault Refusal :=
  .next (s.setPc (offsetTarget nnn (s.getV 0)))

end Sys2Proof.Machine
end

