-- ==== Sys2Proof/Machine/IndexMemory.lean ====
section
/-! DEFINITION. The index-register and memory family: Annn, Fx1E, Fx29, Fx33, Fx55, Fx65
(spec/43_index_memory.md). Every address of a block is checked before anything is written (R45, D10). -/

namespace Sys2Proof.Machine

/-- Annn LD I (R103). -/
def execLdI (nnn : Addr12) (s : State) : Host.Outcome State Fault Refusal :=
  .next (s.setI (addressOf nnn))

/-- Fx1E ADD I (R104): modulo 65536, no flag. -/
def execAddI (x : Nibble) (s : State) : Host.Outcome State Fault Refusal :=
  .next (s.setI (indexSum s.i (s.getV x)))

/-- Fx29 LD F (R105). -/
def execLdF (x : Nibble) (s : State) : Host.Outcome State Fault Refusal :=
  .next (s.setI (glyphAddress (s.getV x)))

/-- Fx33 LD B (R106). -/
def execLdB (x : Nibble) (s : State) : Host.Outcome State Fault Refusal :=
  match firstFailure (checkWrite s.params.protectLowMemory) s.i.toNat 3 with
  | some (kind, addr) => .next (s.raiseIn (.ldB x) kind (some addr))
  | none => .next (s.setMem (s.mem.writeBlock s.i.toNat (bcdDigits (s.getV x))))

/-- Fx55 LD [I], Vx (R107): I is unchanged. -/
def execStoreRegs (x : Nibble) (s : State) : Host.Outcome State Fault Refusal :=
  match firstFailure (checkWrite s.params.protectLowMemory) s.i.toNat (x.toNat + 1) with
  | some (kind, addr) => .next (s.raiseIn (.storeRegs x) kind (some addr))
  | none => .next (s.setMem (s.mem.writeBlock s.i.toNat (s.firstRegs x)))

/-- Fx65 LD Vx, [I] (R108): I is unchanged. -/
def execLoadRegs (x : Nibble) (s : State) : Host.Outcome State Fault Refusal :=
  match firstFailure checkRead s.i.toNat (x.toNat + 1) with
  | some (kind, addr) => .next (s.raiseIn (.loadRegs x) kind (some addr))
  | none => .next { s with v := loadV s.v 0 (s.mem.readBlock s.i.toNat (x.toNat + 1)) }

end Sys2Proof.Machine
end

