-- ==== Sys2Proof/Machine/KeyTimer.lean ====
section
/-! DEFINITION. The key and timer family: Ex9E, ExA1, Fx07, Fx0A, Fx15, Fx18
(spec/44_key_timer.md). -/

namespace Sys2Proof.Machine

/-- Ex9E SKP (R109): a key above 0xF raises `InvalidKey` (D13) before the query. -/
def execSkp (x : Nibble) (s : State) : Host.Outcome State Fault Refusal :=
  if keyWf (s.getV x).toNat then
    let q := s.queryKey ((s.getV x).setWidth 4)
    .next (q.2.skipIf q.1)
  else .next (s.raiseIn (.skp x) .invalidKey none)

/-- ExA1 SKNP (R110). -/
def execSknp (x : Nibble) (s : State) : Host.Outcome State Fault Refusal :=
  if keyWf (s.getV x).toNat then
    let q := s.queryKey ((s.getV x).setWidth 4)
    .next (q.2.skipIf (!q.1))
  else .next (s.raiseIn (.sknp x) .invalidKey none)

/-- Fx07 LD Vx, DT (R111). -/
def execLdVxDT (x : Nibble) (s : State) : Host.Outcome State Fault Refusal :=
  .next (s.setV x s.dt)

/-- Fx0A LD Vx, K (R112): enters `WaitingForKey`; V[x] is written later, by `resume`. -/
def execLdVxK (x : Nibble) (s : State) : Host.Outcome State Fault Refusal :=
  .next { s with waitX := x, run := .waitingForKey }

/-- Fx15 LD DT, Vx (R113). -/
def execLdDTVx (x : Nibble) (s : State) : Host.Outcome State Fault Refusal :=
  .next (s.setDT (s.getV x))

/-- Fx18 LD ST, Vx (R114). -/
def execLdSTVx (x : Nibble) (s : State) : Host.Outcome State Fault Refusal :=
  .next (s.setST (s.getV x))

end Sys2Proof.Machine
end

