-- ==== Sys2Proof/Machine/Step.lean ====
section
/-! DEFINITION. One instruction step (spec/30_encoding.md R57), and placing an instruction where the next
step fetches it. -/

namespace Sys2Proof.Machine

/-- R57's `Step()` of a core that is Running: fetch, advance pc, decode, execute. A fetch out of range
raises before the advance, an unknown opcode after it (R61, R116, R124). -/
def stepRunning (s : State) : Host.Outcome State Fault Refusal :=
  match s.fetch with
  | .outOfRange addr =>
    .next (s.raise { kind := .fetchOutOfRange, pcOfInsn := s.pc, word := none, addr := some addr })
  | .word w =>
    match decode w with
    | some i => exec i s.advancePc
    | none =>
      .next (s.advancePc.raise
        { kind := .unknownOpcode, pcOfInsn := s.pc, word := some w, addr := none })

/-- One step. `Step()` is taken only when `run = Running` and `fault = none` (R57). A core that waits for
a key executes nothing and keeps every piece of state (R130, R137; log entry 6); a halted core has no
step (R136, D27; log entry 5). -/
def step (s : State) : Host.Outcome State Fault Refusal :=
  match s.fault, s.run with
  | some r, _ => .fault (.halted (some r))
  | none, .halted => .fault (.halted none)
  | none, .waitingForKey => .next s
  | none, .running => stepRunning s

/-- The state with the word's two bytes stored where `step` fetches next, so that the very next step runs
it: a pc that cannot be fetched from becomes 0x200, `run` becomes Running and `fault` none. It stands
for the host's load of a program (R142). Log entry 8. -/
def State.withFetchWord (s : State) (nbits w : Nat) : State :=
  let pc : Word := if s.pc.toNat + 1 > 0xFFF then 0x200 else s.pc
  { s with
    pc := pc
    mem := s.mem.writeBlock pc.toNat (bytesOfWord (BitVec.ofNat 16 (w % 2 ^ nbits)))
    run := .running
    fault := none }

end Sys2Proof.Machine
end

