-- ==== Sys2Proof/Machine/HostOps.lean ====
section
/-! DEFINITION. The timer unit (spec/60_exceptions.md R129) and the host's operations on the core: reset
(spec/70_reset_and_hazards.md R142), cycle (R130), resume (R127), render (R75) and reading the fault
record (R133). -/

namespace Sys2Proof.Machine

/-- One timer's decrement, clamped at zero (R129). -/
def tickTimer (t : Byte) : Byte :=
  if t.toNat > 0 then t - 1 else t

/-- `Tick()` (R129). -/
def State.tick (s : State) : State :=
  { s with dt := tickTimer s.dt, st := tickTimer s.st }

/-- `sound_on` (R131). -/
def State.soundOn (s : State) : Bool :=
  decide (s.st.toNat > 0)

/-- The state after `reset(rom)` with these parameters and this font (R142): memory cleared, the font at
0x000, the ROM at 0x200. These writes are not subject to the protection. -/
def resetState (p : Params) (font rom : List Byte) : State :=
  { State.reset with
    mem := (Memory.writeBlock [] 0 font).writeBlock Config.programStart rom
    params := p }

/-- `reset(rom)` (R142): refused for a ROM that does not fit (R144), a font table that is not 80 bytes, or
a STACK_DEPTH of 0 (log entry 21). The old state is discarded whole (R141); only the environment's
draws go on. -/
def State.resetWith (s : State) (p : Params) (font rom : List Byte) :
    Host.Outcome State Fault Refusal :=
  if !romWf rom then .refused (.romTooLong rom.length)
  else if !fontWf font then .refused (.badFontTable font.length)
  else if !p.wf then .refused .badParams
  else .next { resetState p font rom with inputs := s.inputs }

/-- `resume(k)` (R127): writes the key to V[wait_x] when the core waits, and nothing when it runs (D17). -/
def State.resume (k : Nat) (s : State) : Host.Outcome State Fault Refusal :=
  if !keyWf k then .refused (.badKey k)
  else
    match s.fault, s.run with
    | some r, _ => .fault (.halted (some r))
    | none, .halted => .fault (.halted none)
    | none, .waitingForKey => .next { s.setV s.waitX (BitVec.ofNat 8 k) with run := .running }
    | none, .running => .next s

/-- The instructions of one cycle (R130): up to `b` steps while Running. A fault and an Fx0A end it, since
each leaves `run` other than Running. -/
def runBatch : Nat → State → Host.Outcome State Fault Refusal
  | 0, s => .next s
  | b + 1, s =>
    match s.run with
    | .running =>
      match step s with
      | .next s1 => runBatch b s1
      | .fault r => .fault r
      | .refused r => .refused r
    | _ => .next s

/-- What the host gets back from an operation (R133). -/
inductive Reply where
  /-- Nothing. -/
  | done
  /-- A completed cycle: `sound_on` and the Flush event (R131, R132). -/
  | cycleDone (soundOn : Bool)
  /-- A cycle ended by a fault: the record, no sound signal and no Flush (R130, D18). -/
  | faulted (r : FaultRecord)
  /-- The render port: 2048 cells, row-major (R75). -/
  | frame (cells : List Bool)
  /-- The `fault` field (R133). -/
  | faultIs (r : Option FaultRecord)
  deriving DecidableEq, Repr

/-- The end of a cycle, after its batch (R130): the fault record if one was raised; else one tick if
Running, then the sound signal and the Flush. -/
def finishCycle (s : State) : State × Reply :=
  match s.fault with
  | some r => (s, .faulted r)
  | none =>
    let s1 := if s.run = .running then s.tick else s
    (s1, .cycleDone s1.soundOn)

/-- `cycle(b)` (R130); a halted core has none (D27). -/
def State.cycle (b : Nat) (s : State) : Host.Outcome (State × Reply) Fault Refusal :=
  match s.fault, s.run with
  | some r, _ => .fault (.halted (some r))
  | none, .halted => .fault (.halted none)
  | none, _ =>
    match runBatch b s with
    | .next s1 => .next (finishCycle s1)
    | .fault r => .fault r
    | .refused r => .refused r

/-- The operations of the host (R133's table). The last two line an answer up for a coming draw, which the
core takes inside a step (R125, R128; log entry 3). -/
inductive HostOp where
  | reset (p : Params) (font rom : List Byte)
  | cycle (b : Nat)
  | resume (k : Nat)
  | render
  | readFault
  | answerKey (pressed : Bool)
  | answerByte (r : Byte)
  deriving DecidableEq, Repr

/-- Lines up the answer to a coming `IsPressed` query (R125, R133). -/
def State.lineUpKey (s : State) (pressed : Bool) : State :=
  { s with inputs := { s.inputs with keyAnswers := s.inputs.keyAnswers ++ [pressed] } }

/-- Lines up the byte of a coming `RandomByte` draw (R128, R133). -/
def State.lineUpByte (s : State) (r : Byte) : State :=
  { s with inputs := { s.inputs with randomBytes := s.inputs.randomBytes ++ [r] } }

/-- An operation that hands nothing back. -/
def withoutReply : Host.Outcome State Fault Refusal → Host.Outcome (State × Reply) Fault Refusal
  | .next s => .next (s, .done)
  | .fault r => .fault r
  | .refused r => .refused r

/-- One host operation (R133), admitted as its row says. -/
def hostStep (op : HostOp) (s : State) : Host.Outcome (State × Reply) Fault Refusal :=
  match op with
  | .reset p font rom => withoutReply (s.resetWith p font rom)
  | .cycle b => s.cycle b
  | .resume k => withoutReply (s.resume k)
  | .render => .next (s, .frame s.fb.cells)
  | .readFault => .next (s, .faultIs s.fault)
  | .answerKey pressed => .next (s.lineUpKey pressed, .done)
  | .answerByte r => .next (s.lineUpByte r, .done)

end Sys2Proof.Machine
end

