-- ==== Sys2Proof/Safety.lean ====
section
/-! DEFINITION. The terms that claims about the core are stated in: the invariant that every step and
every host operation keeps, what an operation leaves unchanged, and which addresses a block may use. -/

namespace Sys2Proof.Machine

/-- What is true of every state that a session reaches. -/
structure State.Inv (s : State) : Prop where
  /-- Memory is in its canonical form, all addresses below 4096 (R38). -/
  memWf : s.mem.wf = true
  /-- `STACK_DEPTH` is positive or unbounded (R7). -/
  paramsWf : s.params.wf = true
  /-- The stack holds at most `STACK_DEPTH` entries (R20). -/
  stackWithinDepth : ∀ d, s.params.stackDepth = some d → s.stack.length ≤ d
  /-- A pushed value is a + 2 of some CALL, so at most 0x1000 (R81). -/
  returnAddresses : ∀ w ∈ s.stack, w.toNat ≤ 0x1000
  /-- No rule writes a value above 0x10FE to pc (R19, R89). -/
  pcBound : s.pc.toNat ≤ 0x10FE
  /-- A fault is recorded exactly when the core is Halted (R25, R28, R116). -/
  faultHalts : s.fault.isSome = true ↔ s.run = .halted

/-- Every word with these fixed digits decodes to the instruction that `f` makes of its fields (R61: the
`match` and `mask` of a row of R62). -/
def EncodedAs (bits mask : Word) (f : Word → Instr) : Prop :=
  ∀ w : Word, w &&& mask = bits → decode w = some (f w)

/-- From `s` to `t` no register but those listed changed, and nothing besides registers changed. -/
def ChangesOnlyV (rs : List Nibble) (s t : State) : Prop :=
  (∀ r : Nibble, r ∉ rs → t.getV r = s.getV r) ∧ t = { s with v := t.v }

/-- From `s` to `t` nothing but pc changed. -/
def ChangesOnlyPc (s t : State) : Prop :=
  t = { s with pc := t.pc }

/-- From `s` to `t` nothing but I changed. -/
def ChangesOnlyI (s t : State) : Prop :=
  t = { s with i := t.i }

/-- From `s` to `t` nothing but memory changed, and no byte outside `base`, ..., `base + n - 1`. -/
def ChangesOnlyBytes (base n : Nat) (s t : State) : Prop :=
  (∀ a : Nat, a < base ∨ base + n ≤ a → t.mem.get a = s.mem.get a) ∧ t = { s with mem := t.mem }

/-- From `s` to `t` a fault of this kind was raised in the executing instruction `i` and nothing else
changed (R116). -/
def RaisesIn (i : Instr) (kind : FaultKind) (addr : Option Nat) (s t : State) : Prop :=
  t = { s with
    run := .halted
    fault := some { kind := kind, pcOfInsn := s.pc - 2, word := some (encode i), addr := addr } }

/-- A program may write this address (R44). -/
def State.mayWrite (s : State) (a : Nat) : Prop :=
  a ≤ 0xFFF ∧ (s.params.protectLowMemory = true → 0x1FF < a)

/-- What address `a` reads as once the bytes `f 0`, ..., `f (n - 1)` were stored at `base`, `base + 1`, ...
into a memory (R44, R106, R107). -/
def byteAfterStore (m : Memory) (base n : Nat) (f : Nat → Byte) (a : Nat) : Byte :=
  if base ≤ a ∧ a < base + n then f (a - base) else m.get a

/-- `b` is the environment's answer to a query about key `k` (R125): the next one lined up, and with none
lined up the free answer of this draw about this key (log entry 3). -/
def AnswersQuery (k : Nibble) (b : Bool) (e : Inputs) : Prop :=
  (∀ c rest, e.keyAnswers = c :: rest → b = c) ∧
  (e.keyAnswers = [] → b = Config.freeKeyAnswer e.drawCount k)

/-- From `e` to `e'` one query was answered: the answer is taken off, one draw more is counted, and the
lined-up bytes stay (R125; log entry 3). -/
def QueryTakenFrom (e e' : Inputs) : Prop :=
  e' = { e with keyAnswers := e.keyAnswers.tail, drawCount := e.drawCount + 1 }

/-- A run is safe in this state: no fault is recorded and the core is not Halted. -/
def State.safe (s : State) : Bool :=
  s.fault.isNone && s.run != .halted

end Sys2Proof.Machine
end

