-- ==== Sys2Proof/Certificates/Slice0/Obligations.lean ====
section
/-! DEFINITION. The statements about the model, for the provers. Each docstring names the rule of spec/
that it formalises; "derived" ones rest on a decision or an inference of the spec's own, or on a rule
only in part. -/

open Sys2Proof Sys2Proof.Machine

/-! ### Encoding and decode -/

/-- 30 R59, R61, R62: decoding the word of an instruction gives it back, whatever its operands. -/
def Obligations.EncodeThenDecodeGivesInstruction : Prop :=
  ∀ i : Instr, i.wf = true → decode (encode i) = some i

/-- 30 R58, R59: a decoded word is the word of its instruction; no bit of it is dropped. -/
def Obligations.DecodeThenEncodeGivesWord : Prop :=
  ∀ (w : Word) (i : Instr), decode w = some i → encode i = w

/-- 30 R61, 60 R117 (exact matching is the spec's decision D12, the record and its code D11): a word is an
instruction exactly when it matches a row, the instruction is of that row, no word matches two rows, and
a word that matches none raises `UnknownOpcode` (code 1, MalformedProgram) after the PC advance,
recording the fetch address and the word, with no other change. -/
def Obligations.DecodeIsExactlyTheOpcodeTable : Prop :=
  (∀ w : Word, (∃ i, decode w = some i) ↔ ∃ r ∈ opcodeRows, r.holds w = true) ∧
  (∀ (w : Word) (i : Instr), decode w = some i → i.row ∈ opcodeRows ∧ i.row.holds w = true) ∧
  (∀ w : Word, ∀ r ∈ opcodeRows, ∀ r' ∈ opcodeRows,
    r.holds w = true → r'.holds w = true → r = r') ∧
  (∀ (s : State) (w : Word), s.run = .running → s.fault = none → s.fetch = .word w →
    decode w = none →
    step s = .next { s with
      pc := s.pc + 2
      run := .halted
      fault := some { kind := .unknownOpcode, pcOfInsn := s.pc, word := some w, addr := none } }) ∧
  FaultKind.code .unknownOpcode = 1 ∧ FaultKind.faultClass .unknownOpcode = .malformedProgram

/-- 30 R64, R65, R66: the sub-opcodes of families 8, E and F, for every x and y, and every unlisted one an
unknown opcode. -/
def Obligations.SubOpcodesSelectTheOperation : Prop :=
  (∀ x y : Nibble,
    decode (encodeXYN 0x8 x y 0x0) = some (.ldReg x y) ∧
    decode (encodeXYN 0x8 x y 0x1) = some (.orReg x y) ∧
    decode (encodeXYN 0x8 x y 0x2) = some (.andReg x y) ∧
    decode (encodeXYN 0x8 x y 0x3) = some (.xorReg x y) ∧
    decode (encodeXYN 0x8 x y 0x4) = some (.addReg x y) ∧
    decode (encodeXYN 0x8 x y 0x5) = some (.sub x y) ∧
    decode (encodeXYN 0x8 x y 0x6) = some (.shr x y) ∧
    decode (encodeXYN 0x8 x y 0x7) = some (.subn x y) ∧
    decode (encodeXYN 0x8 x y 0xE) = some (.shl x y) ∧
    ∀ n ∈ [0x8#4, 0x9#4, 0xA#4, 0xB#4, 0xC#4, 0xD#4, 0xF#4], decode (encodeXYN 0x8 x y n) = none) ∧
  (∀ x : Nibble,
    decode (encodeXKK 0xE x 0x9E) = some (.skp x) ∧
    decode (encodeXKK 0xE x 0xA1) = some (.sknp x) ∧
    ∀ kk ∉ [0x9E#8, 0xA1#8], decode (encodeXKK 0xE x kk) = none) ∧
  (∀ x : Nibble,
    decode (encodeXKK 0xF x 0x07) = some (.ldVxDT x) ∧
    decode (encodeXKK 0xF x 0x0A) = some (.ldVxK x) ∧
    decode (encodeXKK 0xF x 0x15) = some (.ldDTVx x) ∧
    decode (encodeXKK 0xF x 0x18) = some (.ldSTVx x) ∧
    decode (encodeXKK 0xF x 0x1E) = some (.addI x) ∧
    decode (encodeXKK 0xF x 0x29) = some (.ldF x) ∧
    decode (encodeXKK 0xF x 0x33) = some (.ldB x) ∧
    decode (encodeXKK 0xF x 0x55) = some (.storeRegs x) ∧
    decode (encodeXKK 0xF x 0x65) = some (.loadRegs x) ∧
    ∀ kk ∉ [0x07#8, 0x0A#8, 0x15#8, 0x18#8, 0x1E#8, 0x29#8, 0x33#8, 0x55#8, 0x65#8],
      decode (encodeXKK 0xF x kk) = none)

/-- 30 R63, R67 (the spec's decision D12, conflict C2): family 0 has only 00E0 and 00EE; 5xyn and 9xyn with
n other than 0 are unknown opcodes. -/
def Obligations.FixedDigitsOfFamilies059AreChecked : Prop :=
  (∀ w : Word, fieldOp w = 0x0 → w ≠ 0x00E0 → w ≠ 0x00EE → decode w = none) ∧
  decode 0x00E0 = some .cls ∧ decode 0x00EE = some .ret ∧
  (∀ x y n : Nibble, n ≠ 0 →
    decode (encodeXYN 0x5 x y n) = none ∧ decode (encodeXYN 0x9 x y n) = none)

/-- Words written out bit by bit from R59's formats and R62's patterns decode to the instructions they
stand for. A sanity statement. -/
def Obligations.WrittenWordsDecode : Prop :=
  decode 0b0000000011100000#16 = some .cls ∧
  decode 0b0010001101000101#16 = some (.call 0x345) ∧
  decode 0b0111101000101010#16 = some (.addImm 0xA 0x2A) ∧
  decode 0b1000000100100101#16 = some (.sub 0x1 0x2) ∧
  decode 0b1010001100000000#16 = some (.ldI 0x300) ∧
  decode 0b1101000100100101#16 = some (.drw 0x1 0x2 0x5) ∧
  decode 0b1110011110011110#16 = some (.skp 0x7) ∧
  decode 0b1111110001100101#16 = some (.loadRegs 0xC)

/-! ### The step -/

/-- 30 R57: a step of a Running core whose two bytes at pc decode to an instruction executes it on the state
with pc advanced by 2. -/
def Obligations.StepRunsTheDecodedInstruction : Prop :=
  ∀ (s : State) (i : Instr), s.run = .running → s.fault = none → s.pc.toNat ≤ 0xFFE →
    decode (wordOfBytes (s.mem.get s.pc.toNat) (s.mem.get (s.pc.toNat + 1))) = some i →
    step s = exec i { s with pc := s.pc + 2 }

/-- 30 R57, 60 R120 (the spec's decision D8): a fetch above 0xFFE raises `FetchOutOfRange` with the first
address above 0xFFF, no word, pc not advanced. -/
def Obligations.FetchAboveMemoryHalts : Prop :=
  ∀ s : State, s.run = .running → s.fault = none → 0xFFE < s.pc.toNat →
    step s = .next { s with
      run := .halted
      fault := some {
        kind := .fetchOutOfRange, pcOfInsn := s.pc, word := none,
        addr := some (if 0xFFF < s.pc.toNat then s.pc.toNat else s.pc.toNat + 1) } }

/-- 60 R130, R136, R137: no instruction executes outside Running. The step of a waiting core keeps every
piece of state and the step of a halted core is the model's `halted` fault: both are the model's
reading, log entries 5 and 6. -/
def Obligations.NoInstructionOutsideRunning : Prop :=
  (∀ s : State, s.fault = none → s.run = .waitingForKey → step s = .next s) ∧
  (∀ s : State, s.fault = none → s.run = .halted → step s = .fault (.halted none)) ∧
  (∀ (s : State) (r : FaultRecord), s.fault = some r → step s = .fault (.halted (some r)))

/-- 60 R116 (the spec's decisions D10 and D11): a step that records a fault changes nothing but `fault`,
`run` and pc; the record names the address fetched from and the word fetched; pc is a + 2, or a with no
word for `FetchOutOfRange`. -/
def Obligations.FaultsArePrecise : Prop :=
  ∀ (s t : State) (r : FaultRecord), s.fault = none → step s = .next t → t.fault = some r →
    t = { s with pc := t.pc, run := .halted, fault := some r } ∧
    r.pcOfInsn = s.pc ∧
    (r.kind = .fetchOutOfRange → t.pc = s.pc ∧ r.word = none) ∧
    (r.kind ≠ .fetchOutOfRange →
      t.pc = s.pc + 2 ∧ ∃ w, s.fetch = .word w ∧ r.word = some w)

/-- 60 R123's table: which step raises which fault kind, with the codes and classes (the codes are the
spec's decision D11). -/
def Obligations.FaultsAreRaisedAsTheTableSays : Prop :=
  (∀ (s t : State) (r : FaultRecord), s.fault = none → step s = .next t → t.fault = some r →
    (r.kind = .fetchOutOfRange ∧ 0xFFE < s.pc.toNat) ∨
    (r.kind = .unknownOpcode ∧ ∃ w, s.fetch = .word w ∧ decode w = none) ∨
    ∃ w i, s.fetch = .word w ∧ decode w = some i ∧
      ((r.kind = .stackUnderflow ∧ i = .ret) ∨
       (r.kind = .stackOverflow ∧ ∃ nnn, i = .call nnn) ∨
       (r.kind = .readOutOfRange ∧ ((∃ x y n, i = .drw x y n) ∨ ∃ x, i = .loadRegs x)) ∨
       ((r.kind = .writeOutOfRange ∨ r.kind = .writeProtected) ∧
          ((∃ x, i = .ldB x) ∨ ∃ x, i = .storeRegs x)) ∨
       (r.kind = .invalidKey ∧ ((∃ x, i = .skp x) ∨ ∃ x, i = .sknp x)))) ∧
  [FaultKind.unknownOpcode, .stackUnderflow, .stackOverflow, .fetchOutOfRange, .readOutOfRange,
    .writeOutOfRange, .writeProtected, .invalidKey].map FaultKind.code = [1, 2, 3, 4, 5, 6, 7, 8] ∧
  (∀ k : FaultKind, k.faultClass = .addressOverflow ↔
    k = .fetchOutOfRange ∨ k = .readOutOfRange ∨ k = .writeOutOfRange)

/-! ### Reset -/

/-- 20 R41: pc is 0x200 after every reset that starts a session, and the first fetch is there. -/
def Obligations.ResetVectorIs0x200 : Prop :=
  State.reset.pc = 0x200 ∧
  ∀ (s t : State) (p : Params) (font rom : List Byte), s.resetWith p font rom = .next t →
    t.pc = 0x200 ∧ t.fetch = .word (wordOfBytes (t.mem.get 0x200) (t.mem.get 0x201))

/-- 70 R142, R144, 10 R32: reset starts a session exactly when ROM, font and parameters are ones the spec
allows (that a font of another length or STACK_DEPTH 0 is turned away is the model's choice, log entry
21); then memory holds the font at 0x000, the ROM at 0x200 and 0x00 elsewhere, and R32's registers,
stack, timers, run state, framebuffer and fault have R32's values (the spec's decisions D3, D4, D5, D11,
D17, D22, D30; log entries 1 and 2). That the parameters stand in State, where reset sets them, and that
the lined-up draws go on through a reset are the model's choices, log entries 4 and 3. -/
def Obligations.ResetLoadsFontAndRom : Prop :=
  ∀ (s : State) (p : Params) (font rom : List Byte),
    ((∃ t, s.resetWith p font rom = .next t) ↔
      rom.length ≤ 3584 ∧ font.length = 80 ∧ p.stackDepth ≠ some 0) ∧
    ∀ t, s.resetWith p font rom = .next t →
      (∀ a, t.mem.get a =
        if a < 80 then font.getD a 0
        else if 0x200 ≤ a then rom.getD (a - 0x200) 0
        else 0) ∧
      (∀ r : Nibble, t.getV r = 0) ∧ t.i = 0 ∧ t.pc = 0x200 ∧ t.stack = [] ∧ t.dt = 0 ∧ t.st = 0 ∧
      t.run = .running ∧ t.waitX = 0 ∧ (∀ x y, t.fb.cell x y = false) ∧ t.fault = none ∧
      t.params = p ∧ t.inputs = s.inputs

/-- 70 R142, R143: the reset state of the interface is a reset with the default parameters, the default
font and a ROM of length 0 (R144 accepts it); the default parameters are log entry 4's. -/
def Obligations.InterfaceResetIsAReset : Prop :=
  State.reset.resetWith defaultParams defaultFont [] = .next State.reset

/-! ### Register and ALU family -/

/-- 42 R90, R92, R94, R95: 6xkk and 8xy0 load V[x], 8xy2 is AND, 8xy3 is XOR. -/
def Obligations.LoadsBitwiseAndXor : Prop :=
  EncodedAs 0x6000 0xF000 (fun w => .ldImm (fieldX w) (fieldKK w)) ∧
  EncodedAs 0x8000 0xF00F (fun w => .ldReg (fieldX w) (fieldY w)) ∧
  EncodedAs 0x8002 0xF00F (fun w => .andReg (fieldX w) (fieldY w)) ∧
  EncodedAs 0x8003 0xF00F (fun w => .xorReg (fieldX w) (fieldY w)) ∧
  ∀ (x y : Nibble) (kk : Byte) (s : State),
    (∃ t, exec (.ldImm x kk) s = .next t ∧ t.getV x = kk ∧ ChangesOnlyV [x] s t) ∧
    (∃ t, exec (.ldReg x y) s = .next t ∧ t.getV x = s.getV y ∧ ChangesOnlyV [x] s t) ∧
    (∃ t, exec (.andReg x y) s = .next t ∧ t.getV x = s.getV x &&& s.getV y ∧
      ChangesOnlyV [x] s t) ∧
    (∃ t, exec (.xorReg x y) s = .next t ∧ t.getV x = s.getV x ^^^ s.getV y ∧
      ChangesOnlyV [x] s t)

/-- 42 R91, R93: 7xkk and 8xy1, and the source's law for 6xkk then 7xkk. That neither writes VF is the
spec's inference from the table. -/
def Obligations.AddImmediateAndOr : Prop :=
  EncodedAs 0x7000 0xF000 (fun w => .addImm (fieldX w) (fieldKK w)) ∧
  EncodedAs 0x8001 0xF00F (fun w => .orReg (fieldX w) (fieldY w)) ∧
  ∀ (x y : Nibble) (kk kk' : Byte) (s : State),
    (∃ t, exec (.addImm x kk) s = .next t ∧
      (t.getV x).toNat = ((s.getV x).toNat + kk.toNat) % 256 ∧ ChangesOnlyV [x] s t) ∧
    (∃ t, exec (.orReg x y) s = .next t ∧ t.getV x = s.getV x ||| s.getV y ∧
      ChangesOnlyV [x] s t) ∧
    (∃ t u, exec (.ldImm x kk) s = .next t ∧ exec (.addImm x kk') t = .next u ∧
      (u.getV x).toNat = (kk.toNat + kk'.toNat) % 256 ∧ ChangesOnlyV [x] s u)

/-- 42 R96: 8xy4 leaves the sum mod 256 in V[x] and the carry in VF; with x = F the sum is what VF ends
as (the order of the two writes is the spec's decision D2, log entry 13). -/
def Obligations.AddRegistersWithCarry : Prop :=
  EncodedAs 0x8004 0xF00F (fun w => .addReg (fieldX w) (fieldY w)) ∧
  ∀ (x y : Nibble) (s : State),
    ∃ t, exec (.addReg x y) s = .next t ∧ ChangesOnlyV [x, vf] s t ∧
      (t.getV x).toNat = ((s.getV x).toNat + (s.getV y).toNat) % 256 ∧
      (x ≠ vf → t.getV vf = if (s.getV x).toNat + (s.getV y).toNat > 255 then 1 else 0)

/-- 42 R97: 8xy5, with VF written first (strict comparison) and read again where x or y is F (the order
is the spec's decision D2, log entry 13). -/
def Obligations.SubtractWithNotBorrow : Prop :=
  EncodedAs 0x8005 0xF00F (fun w => .sub (fieldX w) (fieldY w)) ∧
  ∀ (x y : Nibble) (s : State),
    ∃ t, exec (.sub x y) s = .next t ∧ ChangesOnlyV [x, vf] s t ∧
      (x ≠ vf → t.getV vf = if (s.getV x).toNat > (s.getV y).toNat then 1 else 0) ∧
      (x ≠ vf → y ≠ vf →
        (t.getV x).toNat = (256 + (s.getV x).toNat - (s.getV y).toNat) % 256) ∧
      (x ≠ vf → y = vf →
        (t.getV x).toNat = (256 + (s.getV x).toNat - (t.getV vf).toNat) % 256) ∧
      (x = vf → y ≠ vf → (t.getV vf).toNat =
        (256 + (if (s.getV x).toNat > (s.getV y).toNat then 1 else 0) - (s.getV y).toNat) % 256) ∧
      (x = vf → y = vf → t.getV vf = 0)

/-- 42 R99: 8xy7, as 8xy5 with the operands exchanged (the order of its writes is the spec's decision
D2, log entry 13). -/
def Obligations.SubtractReversedWithNotBorrow : Prop :=
  EncodedAs 0x8007 0xF00F (fun w => .subn (fieldX w) (fieldY w)) ∧
  ∀ (x y : Nibble) (s : State),
    ∃ t, exec (.subn x y) s = .next t ∧ ChangesOnlyV [x, vf] s t ∧
      (x ≠ vf → t.getV vf = if (s.getV y).toNat > (s.getV x).toNat then 1 else 0) ∧
      (x ≠ vf → y ≠ vf →
        (t.getV x).toNat = (256 + (s.getV y).toNat - (s.getV x).toNat) % 256) ∧
      (x ≠ vf → y = vf →
        (t.getV x).toNat = (256 + (t.getV vf).toNat - (s.getV x).toNat) % 256) ∧
      (x = vf → y ≠ vf → (t.getV vf).toNat =
        (256 + (s.getV y).toNat - (if (s.getV y).toNat > (s.getV x).toNat then 1 else 0)) % 256) ∧
      (x = vf → y = vf → t.getV vf = 0)

/-- 42 R98, R100: the shifts put the bit shifted out in VF, never read V[y], and with x = F shift the
flag itself (the order of their writes is the spec's decision D2, log entry 13). -/
def Obligations.ShiftsPutTheLostBitInVF : Prop :=
  EncodedAs 0x8006 0xF00F (fun w => .shr (fieldX w) (fieldY w)) ∧
  EncodedAs 0x800E 0xF00F (fun w => .shl (fieldX w) (fieldY w)) ∧
  ∀ (x y : Nibble) (s : State),
    (∃ t, exec (.shr x y) s = .next t ∧ ChangesOnlyV [x, vf] s t ∧
      (x ≠ vf → (t.getV vf).toNat = (s.getV x).toNat % 2 ∧
        (t.getV x).toNat = (s.getV x).toNat / 2) ∧
      (x = vf → t.getV vf = 0)) ∧
    (∃ t, exec (.shl x y) s = .next t ∧ ChangesOnlyV [x, vf] s t ∧
      (x ≠ vf → (t.getV vf).toNat = (s.getV x).toNat / 128 ∧
        (t.getV x).toNat = 2 * (s.getV x).toNat % 256) ∧
      (x = vf → t.getV vf = if 128 ≤ (s.getV x).toNat then 2 else 0))

/-- 42 R101: Cxkk takes one draw r and leaves r AND kk in V[x]; whatever byte the environment draws is the
r used. (That draws are lined up in State is the model's form, log entry 3.) -/
def Obligations.RandomByteIsMasked : Prop :=
  EncodedAs 0xC000 0xF000 (fun w => .rnd (fieldX w) (fieldKK w)) ∧
  ∀ (x : Nibble) (kk : Byte) (s : State),
    (∃ r t, exec (.rnd x kk) s = .next t ∧ t.getV x = r &&& kk ∧
      (∀ q : Nibble, q ≠ x → t.getV q = s.getV q) ∧
      t = { s with v := t.v, inputs := t.inputs } ∧
      t.inputs.keyAnswers = s.inputs.keyAnswers ∧
      t.inputs.drawCount = s.inputs.drawCount + 1) ∧
    (∀ (r : Byte) (rest : List Byte), s.inputs.randomBytes = r :: rest →
      ∃ t, exec (.rnd x kk) s = .next t ∧ t.getV x = r &&& kk ∧ t.inputs.randomBytes = rest)

/-! ### Control-flow family -/

/-- 41 R82, R88: the jumps; Bnnn adds V0 and is not reduced modulo 4096. -/
def Obligations.JumpsSetPc : Prop :=
  EncodedAs 0x1000 0xF000 (fun w => .jp (fieldNNN w)) ∧
  EncodedAs 0xB000 0xF000 (fun w => .jpV0 (fieldNNN w)) ∧
  ∀ (nnn : Addr12) (s : State),
    (∃ t, exec (.jp nnn) s = .next t ∧ t.pc.toNat = nnn.toNat ∧ ChangesOnlyPc s t) ∧
    (∃ t, exec (.jpV0 nnn) s = .next t ∧ t.pc.toNat = nnn.toNat + (s.getV 0).toNat ∧
      ChangesOnlyPc s t)

/-- 41 R84, R85, R86, R87: the four compare-and-skip instructions. -/
def Obligations.SkipsAddTwoWhenTaken : Prop :=
  EncodedAs 0x3000 0xF000 (fun w => .seImm (fieldX w) (fieldKK w)) ∧
  EncodedAs 0x4000 0xF000 (fun w => .sneImm (fieldX w) (fieldKK w)) ∧
  EncodedAs 0x5000 0xF00F (fun w => .seReg (fieldX w) (fieldY w)) ∧
  EncodedAs 0x9000 0xF00F (fun w => .sneReg (fieldX w) (fieldY w)) ∧
  ∀ (x y : Nibble) (kk : Byte) (s : State),
    (∃ t, exec (.seImm x kk) s = .next t ∧ ChangesOnlyPc s t ∧
      t.pc.toNat = (if s.getV x = kk then s.pc.toNat + 2 else s.pc.toNat) % 65536) ∧
    (∃ t, exec (.sneImm x kk) s = .next t ∧ ChangesOnlyPc s t ∧
      t.pc.toNat = (if s.getV x ≠ kk then s.pc.toNat + 2 else s.pc.toNat) % 65536) ∧
    (∃ t, exec (.seReg x y) s = .next t ∧ ChangesOnlyPc s t ∧
      t.pc.toNat = (if s.getV x = s.getV y then s.pc.toNat + 2 else s.pc.toNat) % 65536) ∧
    (∃ t, exec (.sneReg x y) s = .next t ∧ ChangesOnlyPc s t ∧
      t.pc.toNat = (if s.getV x ≠ s.getV y then s.pc.toNat + 2 else s.pc.toNat) % 65536)

/-- 10 R23, 60 R118 (the record and its code are the spec's decision D11): 00EE pops the top entry into
pc; on an empty stack it raises `StackUnderflow` (code 2) and changes nothing else. -/
def Obligations.ReturnPopsTheStack : Prop :=
  EncodedAs 0x00EE 0xFFFF (fun _ => .ret) ∧
  (∀ (s : State) (rest : List Word) (w : Word), s.stack = rest ++ [w] →
    exec .ret s = .next { s with stack := rest, pc := w }) ∧
  (∀ s : State, s.stack = [] →
    ∃ t, exec .ret s = .next t ∧ RaisesIn .ret .stackUnderflow none s t ∧
      t.fault.bind FaultRecord.word = some 0x00EE) ∧
  FaultKind.code .stackUnderflow = 2 ∧ FaultKind.faultClass .stackUnderflow = .malformedProgram

/-- 10 R22, 41 R83, 60 R119 (the spec's decision D6): 2nnn pushes the address after itself and jumps; with
STACK_DEPTH entries on the stack it raises `StackOverflow` and changes nothing else. -/
def Obligations.CallPushesTheReturnAddress : Prop :=
  EncodedAs 0x2000 0xF000 (fun w => .call (fieldNNN w)) ∧
  ∀ (nnn : Addr12) (s : State),
    (s.params.stackDepth ≠ some s.stack.length →
      ∃ t, exec (.call nnn) s = .next t ∧ t.stack = s.stack ++ [s.pc] ∧ t.pc.toNat = nnn.toNat ∧
        t = { s with stack := t.stack, pc := t.pc }) ∧
    (s.params.stackDepth = some s.stack.length →
      ∃ t, exec (.call nnn) s = .next t ∧ RaisesIn (.call nnn) .stackOverflow none s t)

/-- 41 R83's law: a return over the stack that a call left goes to the address after the call and leaves
the stack as it was before the call. -/
def Obligations.ReturnUndoesCall : Prop :=
  ∀ (nnn : Addr12) (s t u : State), exec (.call nnn) s = .next t → s.fault = none → t.fault = none →
    u.stack = t.stack →
    ∃ r, exec .ret u = .next r ∧ r.pc = s.pc ∧ r.stack = s.stack

/-! ### Index-register and memory family -/

/-- 43 R103: Annn. -/
def Obligations.LoadIndexImmediate : Prop :=
  EncodedAs 0xA000 0xF000 (fun w => .ldI (fieldNNN w)) ∧
  ∀ (nnn : Addr12) (s : State),
    ∃ t, exec (.ldI nnn) s = .next t ∧ t.i.toNat = nnn.toNat ∧ ChangesOnlyI s t

/-- 43 R104, R105: Fx1E wraps modulo 65536 and writes no flag (the spec's inference); Fx29 multiplies the
whole of V[x] by 5. -/
def Obligations.IndexArithmetic : Prop :=
  EncodedAs 0xF01E 0xF0FF (fun w => .addI (fieldX w)) ∧
  EncodedAs 0xF029 0xF0FF (fun w => .ldF (fieldX w)) ∧
  ∀ (x : Nibble) (s : State),
    (∃ t, exec (.addI x) s = .next t ∧
      t.i.toNat = (s.i.toNat + (s.getV x).toNat) % 65536 ∧ ChangesOnlyI s t) ∧
    (∃ t, exec (.ldF x) s = .next t ∧ t.i.toNat = (s.getV x).toNat * 5 ∧ ChangesOnlyI s t)

/-- 43 R106: Fx33 stores hundreds, tens and ones at I, I + 1, I + 2 and nothing else; where one of the
three addresses may not be written, the first such address is reported and nothing is stored (the
spec's decisions D9 and D10, log entry 16). -/
def Obligations.BcdStore : Prop :=
  EncodedAs 0xF033 0xF0FF (fun w => .ldB (fieldX w)) ∧
  ∀ (x : Nibble) (s : State), s.mem.wf = true →
    ((∀ k, k < 3 → s.mayWrite (s.i.toNat + k)) →
      ∃ t, exec (.ldB x) s = .next t ∧ ChangesOnlyBytes s.i.toNat 3 s t ∧
        (t.mem.get s.i.toNat).toNat = (s.getV x).toNat / 100 ∧
        (t.mem.get (s.i.toNat + 1)).toNat = (s.getV x).toNat / 10 % 10 ∧
        (t.mem.get (s.i.toNat + 2)).toNat = (s.getV x).toNat % 10) ∧
    (∀ k, k < 3 → ¬ s.mayWrite (s.i.toNat + k) → (∀ j, j < k → s.mayWrite (s.i.toNat + j)) →
      ∃ t, exec (.ldB x) s = .next t ∧
        RaisesIn (.ldB x) (if 0xFFF < s.i.toNat + k then .writeOutOfRange else .writeProtected)
          (some (s.i.toNat + k)) s t)

/-- 43 R107 (that I is unchanged is the spec's inference; the checks are its decisions D9 and D10, log
entry 16): Fx55 stores V0..Vx at I, I + 1, ... and nothing else, or reports the first address that may
not be written and stores nothing. -/
def Obligations.RegisterBlockStore : Prop :=
  EncodedAs 0xF055 0xF0FF (fun w => .storeRegs (fieldX w)) ∧
  ∀ (x : Nibble) (s : State), s.mem.wf = true →
    ((∀ k, k ≤ x.toNat → s.mayWrite (s.i.toNat + k)) →
      ∃ t, exec (.storeRegs x) s = .next t ∧ ChangesOnlyBytes s.i.toNat (x.toNat + 1) s t ∧
        ∀ r : Nibble, r.toNat ≤ x.toNat → t.mem.get (s.i.toNat + r.toNat) = s.getV r) ∧
    (∀ k, k ≤ x.toNat → ¬ s.mayWrite (s.i.toNat + k) →
      (∀ j, j < k → s.mayWrite (s.i.toNat + j)) →
      ∃ t, exec (.storeRegs x) s = .next t ∧
        RaisesIn (.storeRegs x) (if 0xFFF < s.i.toNat + k then .writeOutOfRange else .writeProtected)
          (some (s.i.toNat + k)) s t)

/-- 43 R108: Fx65 loads V0..Vx from I, I + 1, ...; where the block passes 0xFFF, the first address above it
is reported and no register is written (the spec's decisions D8 and D10, log
entries 15 and 16). -/
def Obligations.RegisterBlockLoad : Prop :=
  EncodedAs 0xF065 0xF0FF (fun w => .loadRegs (fieldX w)) ∧
  ∀ (x : Nibble) (s : State),
    (s.i.toNat + x.toNat ≤ 0xFFF →
      ∃ t, exec (.loadRegs x) s = .next t ∧ t = { s with v := t.v } ∧
        ∀ r : Nibble, t.getV r =
          if r.toNat ≤ x.toNat then s.mem.get (s.i.toNat + r.toNat) else s.getV r) ∧
    (0xFFF < s.i.toNat + x.toNat →
      ∃ t, exec (.loadRegs x) s = .next t ∧
        RaisesIn (.loadRegs x) .readOutOfRange
          (some (if 0xFFF < s.i.toNat then s.i.toNat else 0x1000)) s t)

/-- 20 R53 (the spec's decision D20): after Fx55 or Fx33 every fetch, at whatever address of memory it
starts, reads the bytes just stored where it meets them and the earlier bytes elsewhere. `u` is any state
with the memory that the store left, the next instruction's own among them. -/
def Obligations.StoredBytesAreFetched : Prop :=
  (∀ (x : Nibble) (s t u : State), s.mem.wf = true → s.fault = none →
    exec (.storeRegs x) s = .next t → t.fault = none → u.mem = t.mem → u.pc.toNat ≤ 0xFFE →
    let byte := byteAfterStore s.mem s.i.toNat (x.toNat + 1) fun k => s.getV (BitVec.ofNat 4 k)
    u.fetch = .word (wordOfBytes (byte u.pc.toNat) (byte (u.pc.toNat + 1)))) ∧
  (∀ (x : Nibble) (s t u : State), s.mem.wf = true → s.fault = none →
    exec (.ldB x) s = .next t → t.fault = none → u.mem = t.mem → u.pc.toNat ≤ 0xFFE →
    let v := (s.getV x).toNat
    let byte := byteAfterStore s.mem s.i.toNat 3 fun k =>
      BitVec.ofNat 8 (if k = 0 then v / 100 else if k = 1 then v / 10 % 10 else v % 10)
    u.fetch = .word (wordOfBytes (byte u.pc.toNat) (byte (u.pc.toNat + 1))))

/-- 20 R38, R44, R50: on canonical memories, equal bytes at every address make equal memories, and writes
to two different addresses give the same memory in either order. -/
def Obligations.MemoryIsItsBytes : Prop :=
  (∀ m m' : Memory, m.wf = true → m'.wf = true → (∀ a, m.get a = m'.get a) → m = m') ∧
  (∀ (m : Memory) (a b : Nat) (v v' : Byte), m.wf = true → a < 4096 → b < 4096 → a ≠ b →
    (m.set a v).set b v' = (m.set b v').set a v)

/-! ### Display family -/

/-- 40 R72: one pixel is XORed into the wrapped cell, no other cell changes, and the collision is a lit
cell under a set bit (that a clear bit over a lit cell is none, and that wrapping is unconditional, are
the spec's resolutions of conflicts C3 and C4, log entry 19). -/
def Obligations.DrawPixelXorsOneCell : Prop :=
  ∀ (fb : Framebuffer) (px py : Nat) (b : Bool),
    (∀ cx cy, cx < 64 → cy < 32 → (drawPixel fb px py b).1.cell cx cy =
      if cx = px % 64 ∧ cy = py % 32 then (fb.cell cx cy ^^ b) else fb.cell cx cy) ∧
    ((drawPixel fb px py b).2 = true ↔ fb.cell (px % 64) (py % 32) = true ∧ b = true)

/-- 40 R73, R76: 00E0 clears every cell and changes nothing else. -/
def Obligations.ClearScreen : Prop :=
  EncodedAs 0x00E0 0xFFFF (fun _ => .cls) ∧
  ∀ s : State, ∃ t, exec .cls s = .next t ∧ (∀ x y, x < 64 → y < 32 → t.fb.cell x y = false) ∧
    t = { s with fb := t.fb }

/-- 40 R74, R77 (the spec's decision D16 and conflict C3): Dxyn flips exactly the cells under the set bits
of the sprite, whose row `row` is the byte at I + row and whose leftmost column is bit 7, wrapped on both
axes; VF is 1 exactly when some set bit lay on a lit cell. A read above 0xFFF draws nothing (the spec's
decisions D8 and D10, log entries 15 and 16). -/
def Obligations.DrawSpriteFlipsTheSpriteCells : Prop :=
  EncodedAs 0xD000 0xF000 (fun w => .drw (fieldX w) (fieldY w) (fieldN w)) ∧
  ∀ (x y n : Nibble) (s : State),
    ((∀ row, row < n.toNat → s.i.toNat + row ≤ 0xFFF) →
      ∃ t, exec (.drw x y n) s = .next t ∧
        (∀ cx cy, cx < 64 → cy < 32 → (t.fb.cell cx cy ≠ s.fb.cell cx cy ↔
          ∃ row col, row < n.toNat ∧ col < 8 ∧
            ((s.getV x).toNat + col) % 64 = cx ∧ ((s.getV y).toNat + row) % 32 = cy ∧
            (s.mem.get (s.i.toNat + row)).getLsbD (7 - col) = true)) ∧
        (t.getV vf = 1 ∨ t.getV vf = 0) ∧
        (t.getV vf = 1 ↔
          ∃ row col, row < n.toNat ∧ col < 8 ∧
            (s.mem.get (s.i.toNat + row)).getLsbD (7 - col) = true ∧
            s.fb.cell (((s.getV x).toNat + col) % 64) (((s.getV y).toNat + row) % 32) = true) ∧
        (∀ r : Nibble, r ≠ vf → t.getV r = s.getV r) ∧
        t = { s with fb := t.fb, v := t.v }) ∧
    (0 < n.toNat → 0xFFF < s.i.toNat + (n.toNat - 1) →
      ∃ t, exec (.drw x y n) s = .next t ∧
        RaisesIn (.drw x y n) .readOutOfRange
          (some (if 0xFFF < s.i.toNat then s.i.toNat else 0x1000)) s t)

/-- 40 R79 (the source's law; the flag clause is the spec's inference): drawing the same sprite at the same
place again restores the framebuffer, and the second VF is 1 exactly when some set bit fell on a cell
that was dark before the first draw. `u` is any state in which the second draw is the same. -/
def Obligations.DrawingTwiceRestoresTheFramebuffer : Prop :=
  ∀ (x y n : Nibble) (s t u r : State),
    (∀ row, row < n.toNat → s.i.toNat + row ≤ 0xFFF) →
    exec (.drw x y n) s = .next t →
    u.fb = t.fb → u.mem = s.mem → u.i = s.i → u.getV x = s.getV x → u.getV y = s.getV y →
    exec (.drw x y n) u = .next r →
    r.fb = s.fb ∧
    (r.getV vf = 1 ↔
      ∃ row col, row < n.toNat ∧ col < 8 ∧
        (s.mem.get (s.i.toNat + row)).getLsbD (7 - col) = true ∧
        s.fb.cell (((s.getV x).toNat + col) % 64) (((s.getV y).toNat + row) % 32) = false)

/-- 40 R75, 10 R27: the render port is a pure read of all 2048 cells, row-major. That it is admitted in
every state is the spec's decision D28; that the frame is a reply of the operation is log entry 23's
choice. -/
def Obligations.RenderReadsTheFramebuffer : Prop :=
  ∀ s : State, ∃ cells : List Bool,
    hostStep .render s = .next (s, .frame cells) ∧ cells.length = 2048 ∧
      ∀ x y, x < 64 → y < 32 → cells[y * 64 + x]? = some (s.fb.cell x y)

/-! ### Key and timer family -/

/-- 44 R109, R110, 60 R125 (the spec's decision D13): with a logical key in V[x], one answer is drawn and
decides the skip: the environment's next answer when one is lined up, and else the free answer of this
draw about the key in V[x] (the draws' form is the model's choice, log entry 3); with V[x] above 0xF both
raise `InvalidKey`. -/
def Obligations.KeySkips : Prop :=
  EncodedAs 0xE09E 0xF0FF (fun w => .skp (fieldX w)) ∧
  EncodedAs 0xE0A1 0xF0FF (fun w => .sknp (fieldX w)) ∧
  ∀ (x : Nibble) (s : State),
    ((s.getV x).toNat ≤ 0xF →
      ∃ b, AnswersQuery ((s.getV x).setWidth 4) b s.inputs ∧
        (∃ t, exec (.skp x) s = .next t ∧ t.pc = (if b = true then s.pc + 2 else s.pc) ∧
          t = { s with pc := t.pc, inputs := t.inputs } ∧ QueryTakenFrom s.inputs t.inputs) ∧
        (∃ t, exec (.sknp x) s = .next t ∧ t.pc = (if b = true then s.pc else s.pc + 2) ∧
          t = { s with pc := t.pc, inputs := t.inputs } ∧ QueryTakenFrom s.inputs t.inputs)) ∧
    (0xF < (s.getV x).toNat →
      (∃ t, exec (.skp x) s = .next t ∧ RaisesIn (.skp x) .invalidKey none s t) ∧
      (∃ t, exec (.sknp x) s = .next t ∧ RaisesIn (.sknp x) .invalidKey none s t))

/-- 44 R111, R113, R114: Fx07, Fx15, Fx18 move a byte between V[x] and a timer and change nothing else. -/
def Obligations.TimerMoves : Prop :=
  EncodedAs 0xF007 0xF0FF (fun w => .ldVxDT (fieldX w)) ∧
  EncodedAs 0xF015 0xF0FF (fun w => .ldDTVx (fieldX w)) ∧
  EncodedAs 0xF018 0xF0FF (fun w => .ldSTVx (fieldX w)) ∧
  ∀ (x : Nibble) (s : State),
    (∃ t, exec (.ldVxDT x) s = .next t ∧ t.getV x = s.dt ∧ ChangesOnlyV [x] s t) ∧
    (∃ t, exec (.ldDTVx x) s = .next t ∧ t = { s with dt := s.getV x }) ∧
    (∃ t, exec (.ldSTVx x) s = .next t ∧ t = { s with st := s.getV x })

/-- 44 R112, 60 R127 (the spec's decision D17): Fx0A waits and writes no register; the key of the host's
`resume` is then written to V[x] and the core runs on at the same pc. A key above 0xF is refused. -/
def Obligations.KeyWaitAndResume : Prop :=
  EncodedAs 0xF00A 0xF0FF (fun w => .ldVxK (fieldX w)) ∧
  ∀ (x : Nibble) (s : State),
    ∃ t, exec (.ldVxK x) s = .next t ∧ t = { s with waitX := x, run := .waitingForKey } ∧
      (s.fault = none → ∀ k, k ≤ 0xF →
        ∃ u, t.resume k = .next u ∧ (u.getV x).toNat = k ∧
          (∀ r : Nibble, r ≠ x → u.getV r = s.getV r) ∧
          u = { t with v := u.v, run := .running }) ∧
      (∀ k, 0xF < k → t.resume k = .refused (.badKey k))

/-! ### Timers and the host's operations -/

/-- 60 R129, 10 R24, R29: n ticks take each timer down by n, stop at 0, and change nothing else; no
instruction, executed by itself or by a step, but Fx15 changes DT and none but Fx18 changes ST, and no
operation of the host but `cycle`, which ticks, and `reset`, which sets them, changes a timer. -/
def Obligations.TicksCountDownToZero : Prop :=
  (∀ (n : Nat) (s : State),
    (State.tick^[n] s).dt.toNat = s.dt.toNat - n ∧ (State.tick^[n] s).st.toNat = s.st.toNat - n ∧
    State.tick^[n] s = { s with dt := (State.tick^[n] s).dt, st := (State.tick^[n] s).st }) ∧
  (∀ (i : Instr) (s t : State), exec i s = .next t →
    ((∀ x, i ≠ .ldDTVx x) → t.dt = s.dt) ∧ ((∀ x, i ≠ .ldSTVx x) → t.st = s.st)) ∧
  (∀ s t : State, step s = .next t →
    ((∀ x w, s.fetch = .word w → decode w ≠ some (.ldDTVx x)) → t.dt = s.dt) ∧
    ((∀ x w, s.fetch = .word w → decode w ≠ some (.ldSTVx x)) → t.st = s.st)) ∧
  (∀ (op : HostOp) (s t : State) (reply : Reply), hostStep op s = .next (t, reply) →
    (∀ b, op ≠ .cycle b) → (∀ p font rom, op ≠ .reset p font rom) → t.dt = s.dt ∧ t.st = s.st)

/-- 60 R130, R131 (the spec's decision D18 for the fault): a completed cycle is its batch, then one tick if
the core is still Running, then the sound signal; a fault ends it with the record and no tick. -/
def Obligations.CycleIsBatchThenTick : Prop :=
  ∀ (b : Nat) (s : State), s.fault = none → s.run ≠ .halted →
    ∃ s1, runBatch b s = .next s1 ∧
      (s1.fault = none → s1.run = .running →
        s.cycle b = .next (s1.tick, .cycleDone (decide (0 < s1.tick.st.toNat)))) ∧
      (s1.fault = none → s1.run = .waitingForKey →
        s.cycle b = .next (s1, .cycleDone (decide (0 < s1.st.toNat)))) ∧
      (∀ r, s1.fault = some r → s1.run = .halted ∧ s.cycle b = .next (s1, .faulted r))

/-- 60 R130 (conflict C7): a batch is one step after another; an Fx0A or a fault ends it, and while the core
waits a cycle executes nothing, ticks nothing and keeps every piece of state. -/
def Obligations.BatchStopsWhenNotRunning : Prop :=
  (∀ s : State, runBatch 0 s = .next s) ∧
  (∀ (b : Nat) (s t : State), s.run = .running → step s = .next t →
    (t.run = .running → runBatch (b + 1) s = runBatch b t) ∧
    (t.run ≠ .running → runBatch (b + 1) s = .next t)) ∧
  (∀ (b : Nat) (s : State), s.fault = none → s.run = .waitingForKey →
    s.cycle b = .next (s, .cycleDone (decide (0 < s.st.toNat))))

/-- 60 R130 (the spec's decision D18, log entry 20, for the fault and for a batch of 0): a core that has not
faulted answers every cycle, whatever the batch size: completed, or ended by a fault with its record. -/
def Obligations.EveryCycleAnswers : Prop :=
  ∀ (b : Nat) (s : State), s.safe = true →
    ∃ t reply, s.cycle b = .next (t, reply) ∧
      ((∃ c, reply = .cycleDone c ∧ t.fault = none) ∨ ∃ r, reply = .faulted r ∧ t.fault = some r)

/-- 60 R127, R130, R133, R136 (the spec's decisions D11 and D27): a core with a recorded fault takes no
step, cycle or resume; reads are answered and change nothing; a reset starts a new session. That a
stopped step, cycle or resume is the model's `halted` fault is log entry 5's reading (R127 calls such a
resume refused); that render is admitted in Halted is the spec's decision D28, and that the frame and the
fault read are replies is log entry 23's choice. -/
def Obligations.HaltedIsTerminalButForReset : Prop :=
  ∀ (s : State) (r : FaultRecord), s.fault = some r →
    step s = .fault (.halted (some r)) ∧
    (∀ b, hostStep (.cycle b) s = .fault (.halted (some r))) ∧
    (∀ k, k ≤ 0xF → hostStep (.resume k) s = .fault (.halted (some r))) ∧
    (∃ f, hostStep .render s = .next (s, .frame f)) ∧
    hostStep .readFault s = .next (s, .faultIs (some r)) ∧
    (∀ (p : Params) (font rom : List Byte), romWf rom = true → fontWf font = true → p.wf = true →
      ∃ t, hostStep (.reset p font rom) s = .next (t, .done) ∧ t.fault = none ∧ t.run = .running)

/-! ### The whole machine -/

/-- 10 R18 (the spec's inference): no instruction but Annn, Fx1E and Fx29 changes I. -/
def Obligations.OnlyIndexInstructionsChangeI : Prop :=
  ∀ (i : Instr) (s t : State), exec i s = .next t → t.i ≠ s.i →
    (∃ nnn, i = .ldI nnn) ∨ (∃ x, i = .addI x) ∨ ∃ x, i = .ldF x

/-- 10 R20: no instruction but 2nnn and 00EE changes the stack. -/
def Obligations.OnlyCallAndReturnChangeTheStack : Prop :=
  ∀ (i : Instr) (s t : State), exec i s = .next t → t.stack ≠ s.stack →
    (∃ nnn, i = .call nnn) ∨ i = .ret

/-- 10 R27: no instruction but 00E0 and Dxyn changes the framebuffer. -/
def Obligations.OnlyDisplayInstructionsChangeTheFramebuffer : Prop :=
  ∀ (i : Instr) (s t : State), exec i s = .next t → t.fb ≠ s.fb →
    i = .cls ∨ ∃ x y n, i = .drw x y n

/-- 20 R48: no instruction but Fx33 and Fx55 changes memory. -/
def Obligations.OnlyStoresChangeMemory : Prop :=
  ∀ (i : Instr) (s t : State), exec i s = .next t → t.mem ≠ s.mem →
    (∃ x, i = .ldB x) ∨ ∃ x, i = .storeRegs x

/-- 10 R16 (its "no other" clause is the spec's inference): VF is changed only by the six flag-writing
instructions and by an instruction whose destination register is VF. -/
def Obligations.OnlyFlagWritersChangeVF : Prop :=
  ∀ (i : Instr) (s t : State), exec i s = .next t → t.getV vf ≠ s.getV vf →
    match i with
    | .addReg _ _ | .sub _ _ | .shr _ _ | .subn _ _ | .shl _ _ | .drw _ _ _ => True
    | .ldImm x _ | .addImm x _ | .ldReg x _ | .orReg x _ | .andReg x _ | .xorReg x _ | .rnd x _
    | .ldVxDT x | .loadRegs x => x = vf
    | _ => False

/-- 30 R57, 41 R89: every instruction outside the control-flow family and the key skips leaves pc at the
address after itself, so it falls through. -/
def Obligations.OtherInstructionsFallThrough : Prop :=
  ∀ (i : Instr) (s t : State), exec i s = .next t → t.pc ≠ s.pc →
    match i with
    | .ret | .jp _ | .call _ | .seImm _ _ | .sneImm _ _ | .seReg _ _ | .sneReg _ _ | .jpV0 _
    | .skp _ | .sknp _ => True
    | _ => False

/-- 20 R40, R44 (the spec's decision D9): with PROTECT_LOW_MEMORY, no step writes an address at or below
0x1FF: the source's invariant. -/
def Obligations.ProtectedMemoryIsNeverWritten : Prop :=
  ∀ s t : State, s.mem.wf = true → s.params.protectLowMemory = true → step s = .next t →
    ∀ a, a ≤ 0x1FF → t.mem.get a = s.mem.get a

/-- 00 R7, R8: only Cxkk, Ex9E and ExA1 see the environment's draws; every other instruction does the same
whatever is lined up. (That draws and parameters lie in State is the model's form, log entries 3 and 4.) -/
def Obligations.DrawsAreSeenOnlyByTheDrawingInstructions : Prop :=
  ∀ (i : Instr) (s t : State) (e : Inputs),
    (∀ x kk, i ≠ .rnd x kk) → (∀ x, i ≠ .skp x) → (∀ x, i ≠ .sknp x) →
    exec i s = .next t →
    t.inputs = s.inputs ∧ exec i { s with inputs := e } = .next { t with inputs := e }

/-- 00 R7, 10 R31: no step changes the session's parameters. (Holding them in State is the model's form,
log entry 4.) -/
def Obligations.ParametersNeverChange : Prop :=
  ∀ s t : State, step s = .next t → t.params = s.params

/-- 10 R14, R20, R32, 20 R38: the interface's reset state meets the invariant, and so does the first state
of every session, whatever state the reset was called in. -/
def Obligations.ResetMeetsTheInvariant : Prop :=
  State.reset.Inv ∧
  ∀ (s t : State) (p : Params) (font rom : List Byte), s.resetWith p font rom = .next t → t.Inv

/-- 10 R14, R19, R20, R25, 20 R38, 41 R81, R89: every step keeps the invariant: canonical memory of 4096
cells, a stack within STACK_DEPTH of return addresses at most 0x1000, pc at most 0x10FE, and a recorded
fault exactly in Halted. -/
def Obligations.StepKeepsTheInvariant : Prop :=
  ∀ s t : State, s.Inv → step s = .next t → t.Inv

/-- 60 R133: every operation of the host keeps the invariant, from every state that meets it. -/
def Obligations.HostOperationsKeepTheInvariant : Prop :=
  ∀ (op : HostOp) (s t : State) (reply : Reply), s.Inv → hostStep op s = .next (t, reply) → t.Inv

/-- 60 R127 (the spec's decision D17, log entry 20): a `resume` of a logical key while the core is Running
changes nothing. -/
def Obligations.ResumeWhileRunningChangesNothing : Prop :=
  ∀ (s : State) (k : Nat), s.fault = none → s.run = .running → k ≤ 0xF →
    s.resume k = .next s ∧ hostStep (.resume k) s = .next (s, .done)
end

