-- ==== Sys2Proof/Laws/Encoding.lean ====
section
/-! SUPPORT. Fields of assembled words, words of their fields, and what a row's mask says of a word's
fields (spec/30_encoding.md R58-R62). -/

namespace Sys2Proof

@[simp] theorem fieldOp_encodeXYN (o x y n : Nibble) : fieldOp (encodeXYN o x y n) = o := by
  apply BitVec.eq_of_getLsbD_eq
  intro i hi
  simp only [fieldOp, encodeXYN, BitVec.getLsbD_extractLsb', BitVec.getLsbD_append]
  interval_cases i <;> simp

@[simp] theorem fieldX_encodeXYN (o x y n : Nibble) : fieldX (encodeXYN o x y n) = x := by
  apply BitVec.eq_of_getLsbD_eq
  intro i hi
  simp only [fieldX, encodeXYN, BitVec.getLsbD_extractLsb', BitVec.getLsbD_append]
  interval_cases i <;> simp

@[simp] theorem fieldY_encodeXYN (o x y n : Nibble) : fieldY (encodeXYN o x y n) = y := by
  apply BitVec.eq_of_getLsbD_eq
  intro i hi
  simp only [fieldY, encodeXYN, BitVec.getLsbD_extractLsb', BitVec.getLsbD_append]
  interval_cases i <;> simp

@[simp] theorem fieldN_encodeXYN (o x y n : Nibble) : fieldN (encodeXYN o x y n) = n := by
  apply BitVec.eq_of_getLsbD_eq
  intro i hi
  simp only [fieldN, encodeXYN, BitVec.getLsbD_extractLsb', BitVec.getLsbD_append]
  interval_cases i <;> simp

@[simp] theorem fieldOp_encodeXKK (o x : Nibble) (kk : Byte) : fieldOp (encodeXKK o x kk) = o := by
  apply BitVec.eq_of_getLsbD_eq
  intro i hi
  simp only [fieldOp, encodeXKK, BitVec.getLsbD_extractLsb', BitVec.getLsbD_append]
  interval_cases i <;> simp

@[simp] theorem fieldX_encodeXKK (o x : Nibble) (kk : Byte) : fieldX (encodeXKK o x kk) = x := by
  apply BitVec.eq_of_getLsbD_eq
  intro i hi
  simp only [fieldX, encodeXKK, BitVec.getLsbD_extractLsb', BitVec.getLsbD_append]
  interval_cases i <;> simp

@[simp] theorem fieldKK_encodeXKK (o x : Nibble) (kk : Byte) : fieldKK (encodeXKK o x kk) = kk := by
  apply BitVec.eq_of_getLsbD_eq
  intro i hi
  simp only [fieldKK, encodeXKK, BitVec.getLsbD_extractLsb', BitVec.getLsbD_append]
  interval_cases i <;> simp

@[simp] theorem fieldOp_encodeNNN (o : Nibble) (nnn : Addr12) : fieldOp (encodeNNN o nnn) = o := by
  apply BitVec.eq_of_getLsbD_eq
  intro i hi
  simp only [fieldOp, encodeNNN, BitVec.getLsbD_extractLsb', BitVec.getLsbD_append]
  interval_cases i <;> simp

@[simp] theorem fieldNNN_encodeNNN (o : Nibble) (nnn : Addr12) : fieldNNN (encodeNNN o nnn) = nnn := by
  apply BitVec.eq_of_getLsbD_eq
  intro i hi
  simp only [fieldNNN, encodeNNN, BitVec.getLsbD_extractLsb', BitVec.getLsbD_append]
  interval_cases i <;> simp

/-- A word is assembled from its own fields. -/
@[simp] theorem encodeXYN_fields (w : Word) : encodeXYN (fieldOp w) (fieldX w) (fieldY w) (fieldN w) = w := by
  apply BitVec.eq_of_getLsbD_eq
  intro i hi
  simp only [fieldOp, fieldX, fieldY, fieldN, encodeXYN, BitVec.getLsbD_extractLsb', BitVec.getLsbD_append]
  interval_cases i <;> simp

/-- A word is assembled from its own fields. -/
@[simp] theorem encodeXKK_fields (w : Word) : encodeXKK (fieldOp w) (fieldX w) (fieldKK w) = w := by
  apply BitVec.eq_of_getLsbD_eq
  intro i hi
  simp only [fieldOp, fieldX, fieldKK, encodeXKK, BitVec.getLsbD_extractLsb', BitVec.getLsbD_append]
  interval_cases i <;> simp

/-- A word is assembled from its own fields. -/
@[simp] theorem encodeNNN_fields (w : Word) : encodeNNN (fieldOp w) (fieldNNN w) = w := by
  apply BitVec.eq_of_getLsbD_eq
  intro i hi
  simp only [fieldOp, fieldNNN, encodeNNN, BitVec.getLsbD_extractLsb', BitVec.getLsbD_append]
  interval_cases i <;> simp

/-- The low byte of a word assembled from nibbles. -/
theorem fieldKK_encodeXYN (o x y n : Nibble) : fieldKK (encodeXYN o x y n) = y ++ n := by
  apply BitVec.eq_of_getLsbD_eq
  intro i hi
  simp only [fieldKK, encodeXYN, BitVec.getLsbD_extractLsb', BitVec.getLsbD_append]
  interval_cases i <;> simp

/-- The low nibble of a word assembled from a low byte. -/
theorem fieldN_encodeXKK (o x : Nibble) (kk : Byte) : fieldN (encodeXKK o x kk) = kk.extractLsb' 0 4 := by
  apply BitVec.eq_of_getLsbD_eq
  intro i hi
  simp only [fieldN, encodeXKK, BitVec.getLsbD_extractLsb', BitVec.getLsbD_append]
  interval_cases i <;> simp

theorem fieldOp_and (w m : Word) : fieldOp (w &&& m) = fieldOp w &&& fieldOp m := by
  apply BitVec.eq_of_getLsbD_eq
  intro i hi
  simp only [fieldOp, BitVec.getLsbD_extractLsb', BitVec.getLsbD_and]
  cases decide (i < 4) <;> simp

theorem fieldX_and (w m : Word) : fieldX (w &&& m) = fieldX w &&& fieldX m := by
  apply BitVec.eq_of_getLsbD_eq
  intro i hi
  simp only [fieldX, BitVec.getLsbD_extractLsb', BitVec.getLsbD_and]
  cases decide (i < 4) <;> simp

theorem fieldY_and (w m : Word) : fieldY (w &&& m) = fieldY w &&& fieldY m := by
  apply BitVec.eq_of_getLsbD_eq
  intro i hi
  simp only [fieldY, BitVec.getLsbD_extractLsb', BitVec.getLsbD_and]
  cases decide (i < 4) <;> simp

theorem fieldN_and (w m : Word) : fieldN (w &&& m) = fieldN w &&& fieldN m := by
  apply BitVec.eq_of_getLsbD_eq
  intro i hi
  simp only [fieldN, BitVec.getLsbD_extractLsb', BitVec.getLsbD_and]
  cases decide (i < 4) <;> simp

theorem fieldKK_and (w m : Word) : fieldKK (w &&& m) = fieldKK w &&& fieldKK m := by
  apply BitVec.eq_of_getLsbD_eq
  intro i hi
  simp only [fieldKK, BitVec.getLsbD_extractLsb', BitVec.getLsbD_and]
  cases decide (i < 8) <;> simp

theorem fieldNNN_and (w m : Word) : fieldNNN (w &&& m) = fieldNNN w &&& fieldNNN m := by
  apply BitVec.eq_of_getLsbD_eq
  intro i hi
  simp only [fieldNNN, BitVec.getLsbD_extractLsb', BitVec.getLsbD_and]
  cases decide (i < 12) <;> simp

/-- What matching a row with mask 0xF000 says of the fields (R61). -/
theorem fields_of_mask_F000 {w b : Word} (h : w &&& 0xF000 = b) : fieldOp w = fieldOp b := by
  subst h
  rw [fieldOp_and, show fieldOp 0xF000 = BitVec.allOnes 4 by decide, BitVec.and_allOnes]

/-- What matching a row with mask 0xF00F says of the fields (R61). -/
theorem fields_of_mask_F00F {w b : Word} (h : w &&& 0xF00F = b) :
    fieldOp w = fieldOp b ∧ fieldN w = fieldN b := by
  subst h
  rw [fieldOp_and, fieldN_and, show fieldOp 0xF00F = BitVec.allOnes 4 by decide,
    show fieldN 0xF00F = BitVec.allOnes 4 by decide, BitVec.and_allOnes, BitVec.and_allOnes]
  exact ⟨rfl, rfl⟩

/-- What matching a row with mask 0xF0FF says of the fields (R61). -/
theorem fields_of_mask_F0FF {w b : Word} (h : w &&& 0xF0FF = b) :
    fieldOp w = fieldOp b ∧ fieldKK w = fieldKK b := by
  subst h
  rw [fieldOp_and, fieldKK_and, show fieldOp 0xF0FF = BitVec.allOnes 4 by decide,
    show fieldKK 0xF0FF = BitVec.allOnes 8 by decide, BitVec.and_allOnes, BitVec.and_allOnes]
  exact ⟨rfl, rfl⟩

/-- What masking with a row's mask leaves of an assembled word (R59, R61). -/
theorem encodeNNN_mask (o : Nibble) (nnn : Addr12) :
    encodeNNN o nnn &&& 0xF000 = encodeNNN o 0 := by
  rw [← encodeNNN_fields (encodeNNN o nnn &&& 0xF000), fieldOp_and, fieldNNN_and,
    fieldOp_encodeNNN, fieldNNN_encodeNNN, show fieldOp 0xF000 = BitVec.allOnes 4 by decide,
    show fieldNNN 0xF000 = 0 by decide, BitVec.and_allOnes]
  simp

theorem encodeXKK_mask (o x : Nibble) (kk : Byte) :
    encodeXKK o x kk &&& 0xF000 = encodeXKK o 0 0 := by
  rw [← encodeXKK_fields (encodeXKK o x kk &&& 0xF000), fieldOp_and, fieldX_and, fieldKK_and,
    fieldOp_encodeXKK, fieldX_encodeXKK, fieldKK_encodeXKK,
    show fieldOp 0xF000 = BitVec.allOnes 4 by decide, show fieldX 0xF000 = 0 by decide,
    show fieldKK 0xF000 = 0 by decide, BitVec.and_allOnes]
  simp

theorem encodeXKK_mask_low (o x : Nibble) (kk : Byte) :
    encodeXKK o x kk &&& 0xF0FF = encodeXKK o 0 kk := by
  rw [← encodeXKK_fields (encodeXKK o x kk &&& 0xF0FF), fieldOp_and, fieldX_and, fieldKK_and,
    fieldOp_encodeXKK, fieldX_encodeXKK, fieldKK_encodeXKK,
    show fieldOp 0xF0FF = BitVec.allOnes 4 by decide, show fieldX 0xF0FF = 0 by decide,
    show fieldKK 0xF0FF = BitVec.allOnes 8 by decide, BitVec.and_allOnes, BitVec.and_allOnes]
  simp

theorem encodeXYN_mask (o x y n : Nibble) :
    encodeXYN o x y n &&& 0xF000 = encodeXYN o 0 0 0 := by
  rw [← encodeXYN_fields (encodeXYN o x y n &&& 0xF000), fieldOp_and, fieldX_and, fieldY_and,
    fieldN_and, fieldOp_encodeXYN, fieldX_encodeXYN, fieldY_encodeXYN, fieldN_encodeXYN,
    show fieldOp 0xF000 = BitVec.allOnes 4 by decide, show fieldX 0xF000 = 0 by decide,
    show fieldY 0xF000 = 0 by decide, show fieldN 0xF000 = 0 by decide, BitVec.and_allOnes]
  simp

theorem encodeXYN_mask_low (o x y n : Nibble) :
    encodeXYN o x y n &&& 0xF00F = encodeXYN o 0 0 n := by
  rw [← encodeXYN_fields (encodeXYN o x y n &&& 0xF00F), fieldOp_and, fieldX_and, fieldY_and,
    fieldN_and, fieldOp_encodeXYN, fieldX_encodeXYN, fieldY_encodeXYN, fieldN_encodeXYN,
    show fieldOp 0xF00F = BitVec.allOnes 4 by decide, show fieldX 0xF00F = 0 by decide,
    show fieldY 0xF00F = 0 by decide, show fieldN 0xF00F = BitVec.allOnes 4 by decide,
    BitVec.and_allOnes, BitVec.and_allOnes]
  simp

/-- A word's two bytes, put together again (R46). -/
@[simp] theorem wordOfBytes_bytes (w : Word) : wordOfBytes (highByte w) (lowByte w) = w := by
  apply BitVec.eq_of_getLsbD_eq
  intro i hi
  simp only [wordOfBytes, highByte, lowByte, BitVec.getLsbD_extractLsb', BitVec.getLsbD_append]
  interval_cases i <;> simp

/-- The decoder over bytes reads the word the first two bytes make (R57, R61). -/
theorem decodeBytes_cons (hi lo : Byte) (rest : List Byte) :
    decodeBytes (hi :: lo :: rest) =
      match decode (wordOfBytes hi lo) with
      | some i => .insn i rest
      | none => .unknownOpcode (wordOfBytes hi lo) := rfl

end Sys2Proof
end

