-- ==== Sys2Proof/Laws/Memory.lean ====
section
/-! SUPPORT. Memory: reading after writing, the canonical form, and blocks (spec/20_memory.md). -/

namespace Sys2Proof.Machine

/-- The canonical form from an address on is one from every lower address on. -/
theorem Memory.wfFrom_mono {m : Memory} {lo lo' : Nat} (h : lo' ≤ lo) (hm : m.wfFrom lo = true) :
    m.wfFrom lo' = true := by
  cases m with
  | nil => rfl
  | cons c m =>
    simp only [Memory.wfFrom, Bool.and_eq_true, decide_eq_true_eq] at hm ⊢
    exact ⟨⟨⟨by omega, hm.1.1.2⟩, hm.1.2⟩, hm.2⟩

/-- Below the first listed address everything reads as unlisted. -/
theorem Memory.get_below {m : Memory} {lo a : Nat} (hm : m.wfFrom lo = true) (h : a < lo) :
    m.get a = resetByte a := by
  induction m generalizing lo with
  | nil => rfl
  | cons c m ih =>
    simp only [Memory.wfFrom, Bool.and_eq_true, decide_eq_true_eq] at hm
    rw [Memory.get, if_neg (by omega)]
    exact ih hm.2 (by omega)

/-- An address at or above 4096 is never listed. -/
theorem Memory.get_above {m : Memory} {lo a : Nat} (hm : m.wfFrom lo = true) (h : Config.memSize ≤ a) :
    m.get a = resetByte a := by
  induction m generalizing lo with
  | nil => rfl
  | cons c m ih =>
    simp only [Memory.wfFrom, Bool.and_eq_true, decide_eq_true_eq] at hm
    rw [Memory.get, if_neg (by omega)]
    exact ih hm.2

/-- Reading after writing, on a canonical memory (R44, R50). -/
theorem Memory.get_set_from {m : Memory} {lo : Nat} (hm : m.wfFrom lo = true) (a x : Nat) (b : Byte) :
    (m.set a b).get x = if x = a then b else m.get x := by
  induction m generalizing lo with
  | nil =>
    simp only [Memory.set]
    split
    · simp only [Memory.get]; split <;> simp_all
    · simp only [Memory.get, eq_comm]
  | cons c m ih =>
    obtain ⟨k, d⟩ := c
    have hw := hm
    simp only [Memory.wfFrom, Bool.and_eq_true, decide_eq_true_eq] at hm
    have hbelow : ∀ y, y < k → Memory.get ((k, d) :: m) y = resetByte y := fun y hy => by
      rw [Memory.get, if_neg (by omega)]
      exact Memory.get_below hm.2 (by omega)
    simp only [Memory.set]
    split
    · rename_i hlt
      split
      · by_cases hx : x = a
        · subst hx; rw [hbelow x hlt, if_pos rfl]; simp_all
        · rw [if_neg hx]
      · rw [Memory.get]; simp only [eq_comm]
    · split
      · rename_i hge heq
        subst heq
        split
        · by_cases hx : x = a
          · subst hx; rw [if_pos rfl, Memory.get_below hm.2 (by omega)]; simp_all
          · rw [if_neg hx, Memory.get, if_neg (Ne.symm hx)]
        · by_cases hx : x = a
          · subst hx; simp [Memory.get]
          · simp [Memory.get, hx, Ne.symm hx]
      · rw [Memory.get, ih hm.2, Memory.get]
        by_cases hx : x = a
        · subst hx; simp; omega
        · simp [hx]

/-- A write keeps the canonical form. -/
theorem Memory.set_wfFrom {m : Memory} {lo a : Nat} (hm : m.wfFrom lo = true) (hlo : lo ≤ a)
    (ha : a < Config.memSize) (b : Byte) : (m.set a b).wfFrom lo = true := by
  induction m generalizing lo with
  | nil =>
    simp only [Memory.set]
    split
    · rfl
    · simp_all [Memory.wfFrom]
  | cons c m ih =>
    obtain ⟨k, d⟩ := c
    simp only [Memory.wfFrom, Bool.and_eq_true, decide_eq_true_eq] at hm
    simp only [Memory.set]
    split
    · split
      · simp_all [Memory.wfFrom]
      · simp only [Memory.wfFrom, Bool.and_eq_true, decide_eq_true_eq]
        exact ⟨⟨⟨hlo, ha⟩, by simp_all⟩, ⟨⟨by omega, hm.1.1.2⟩, hm.1.2⟩, hm.2⟩
    · split
      · rename_i heq
        subst heq
        split
        · exact Memory.wfFrom_mono (by omega) hm.2
        · simp only [Memory.wfFrom, Bool.and_eq_true, decide_eq_true_eq]
          exact ⟨⟨hm.1.1, by simp_all⟩, hm.2⟩
      · simp only [Memory.wfFrom, Bool.and_eq_true, decide_eq_true_eq]
        exact ⟨hm.1, ih hm.2 (by omega)⟩

theorem Memory.get_set {m : Memory} (hm : m.wf = true) (a x : Nat) (b : Byte) :
    (m.set a b).get x = if x = a then b else m.get x :=
  Memory.get_set_from hm a x b

theorem Memory.set_wf {m : Memory} (hm : m.wf = true) {a : Nat} (ha : a < Config.memSize) (b : Byte) :
    (m.set a b).wf = true :=
  Memory.set_wfFrom hm (Nat.zero_le _) ha b

/-- A block write inside the address space keeps the canonical form. -/
theorem Memory.writeBlock_wf {m : Memory} (hm : m.wf = true) {base : Nat} {bs : List Byte}
    (h : bs = [] ∨ base + bs.length ≤ Config.memSize) : (m.writeBlock base bs).wf = true := by
  induction bs generalizing m base with
  | nil => exact hm
  | cons b bs ih =>
    have h' : base + (bs.length + 1) ≤ Config.memSize := by simpa using h
    exact ih (Memory.set_wf hm (by omega) b) (.inr (by omega))

/-- Reading after a block write (R106, R107): the block's own bytes inside it, the old bytes outside. -/
theorem Memory.get_writeBlock {m : Memory} (hm : m.wf = true) {base : Nat} {bs : List Byte}
    (h : bs = [] ∨ base + bs.length ≤ Config.memSize) (x : Nat) :
    (m.writeBlock base bs).get x =
      if hx : base ≤ x ∧ x - base < bs.length then bs[x - base]'hx.2 else m.get x := by
  induction bs generalizing m base with
  | nil => simp [Memory.writeBlock]
  | cons b bs ih =>
    have h' : base + (bs.length + 1) ≤ Config.memSize := by simpa using h
    rw [Memory.writeBlock, ih (Memory.set_wf hm (by omega) b) (.inr (by omega)), Memory.get_set hm]
    by_cases hx : x = base
    · subst hx; simp
    · by_cases h1 : base + 1 ≤ x
      · have e : x - base = (x - (base + 1)) + 1 := by omega
        by_cases h2 : x - (base + 1) < bs.length
        · simp [h1, h2, e, Nat.le_of_succ_le h1]
        · have h3 : ¬ (x - base < bs.length + 1) := by omega
          simp [h2, h3, hx]
      · have h3 : ¬ base ≤ x := by omega
        simp [h1, h3, hx]

@[simp] theorem Memory.readBlock_length (m : Memory) (base n : Nat) : (m.readBlock base n).length = n := by
  simp [Memory.readBlock]

@[simp] theorem Memory.readBlock_getElem (m : Memory) (base n k : Nat) (h : k < (m.readBlock base n).length) :
    (m.readBlock base n)[k] = m.get (base + k) := by
  simp [Memory.readBlock]

@[simp] theorem Memory.wf_nil : Memory.wf [] = true := rfl

/-! ### The checks of R43-R45 -/

/-- No address of the block fails the check, if and only if each passes it (R45). -/
theorem firstFailure_eq_none {check : Nat → Option FaultKind} {base n : Nat} :
    firstFailure check base n = none ↔ ∀ k, k < n → check (base + k) = none := by
  induction n generalizing base with
  | zero => simp [firstFailure]
  | succ n ih =>
    unfold firstFailure
    cases hc : check base with
    | some kind =>
      simp only [reduceCtorEq, false_iff, not_forall]
      exact ⟨0, by omega, by simp [hc]⟩
    | none =>
      simp only [ih]
      constructor
      · intro h k hk
        cases k with
        | zero => simpa using hc
        | succ k => simpa [Nat.add_assoc, Nat.add_comm 1] using h k (by omega)
      · intro h k hk
        simpa [Nat.add_assoc, Nat.add_comm 1] using h (k + 1) (by omega)

/-- The failure reported is the first one, in ascending order (R45, R124). -/
theorem firstFailure_eq_some {check : Nat → Option FaultKind} {base n a : Nat} {kind : FaultKind} :
    firstFailure check base n = some (kind, a) ↔
      ∃ k, k < n ∧ a = base + k ∧ check a = some kind ∧ ∀ j, j < k → check (base + j) = none := by
  induction n generalizing base with
  | zero => simp [firstFailure]
  | succ n ih =>
    unfold firstFailure
    cases hc : check base with
    | some kd =>
      simp only [Option.some.injEq, Prod.mk.injEq]
      constructor
      · rintro ⟨rfl, rfl⟩
        exact ⟨0, by omega, rfl, hc, by simp⟩
      · rintro ⟨k, hk, rfl, hck, hj⟩
        cases k with
        | zero => simp_all
        | succ k => simpa [hc] using hj 0 (by omega)
    | none =>
      simp only [ih]
      constructor
      · rintro ⟨k, hk, rfl, hck, hj⟩
        refine ⟨k + 1, by omega, by omega, hck, fun j hjk => ?_⟩
        cases j with
        | zero => simpa using hc
        | succ j => simpa [Nat.add_assoc, Nat.add_comm 1] using hj j (by omega)
      · rintro ⟨k, hk, rfl, hck, hj⟩
        cases k with
        | zero => simp_all
        | succ k =>
          refine ⟨k, by omega, by omega, hck, fun j hjk => ?_⟩
          simpa [Nat.add_assoc, Nat.add_comm 1] using hj (j + 1) (by omega)

theorem checkRead_eq_none {a : Nat} : checkRead a = none ↔ a ≤ 0xFFF := by
  unfold checkRead; split <;> simp <;> omega

theorem checkRead_eq_some {a : Nat} {kind : FaultKind} :
    checkRead a = some kind ↔ kind = .readOutOfRange ∧ 0xFFF < a := by
  unfold checkRead
  split
  · rename_i h
    exact ⟨fun e => ⟨(Option.some.inj e).symm, h⟩, fun e => congrArg some e.1.symm⟩
  · rename_i h
    exact ⟨fun e => absurd e (by simp), fun e => absurd e.2 h⟩

theorem checkWrite_eq_none {p : Bool} {a : Nat} :
    checkWrite p a = none ↔ a ≤ 0xFFF ∧ (p = true → 0x1FF < a) := by
  unfold checkWrite
  cases p <;> simp only [Bool.false_and, Bool.true_and] <;> split <;> try split
  all_goals simp_all

theorem checkWrite_eq_some {p : Bool} {a : Nat} {kind : FaultKind} :
    checkWrite p a = some kind ↔
      (kind = .writeOutOfRange ∧ 0xFFF < a) ∨ (kind = .writeProtected ∧ p = true ∧ a ≤ 0x1FF) := by
  unfold checkWrite
  split
  · rename_i h
    constructor
    · exact fun e => .inl ⟨(Option.some.inj e).symm, h⟩
    · rintro (⟨rfl, _⟩ | ⟨_, _, h2⟩)
      · rfl
      · omega
  · rename_i h
    split
    · rename_i h2
      rw [Bool.and_eq_true, decide_eq_true_eq] at h2
      constructor
      · exact fun e => .inr ⟨(Option.some.inj e).symm, h2⟩
      · rintro (⟨_, h3⟩ | ⟨rfl, _⟩)
        · exact absurd h3 h
        · rfl
    · rename_i h2
      rw [Bool.and_eq_true, decide_eq_true_eq] at h2
      refine ⟨fun e => absurd e (by simp), ?_⟩
      rintro (⟨_, h3⟩ | ⟨_, h3⟩)
      · exact absurd h3 h
      · exact absurd h3 h2

end Sys2Proof.Machine
end

