-- ==== Sys2Proof/Laws/State.lean ====
section
/-! SUPPORT. One lemma per field per update of the state, all true by definition, and what reading a
register after writing one gives. -/

namespace Sys2Proof.Machine

/-! ### `setV` -/

@[simp] theorem State.setV_v (s : State) (r : Nibble) (b : Byte) : (s.setV r b).v = s.v.set r.toNat b r.isLt := rfl
@[simp] theorem State.setV_i (s : State) (r : Nibble) (b : Byte) : (s.setV r b).i = s.i := rfl
@[simp] theorem State.setV_pc (s : State) (r : Nibble) (b : Byte) : (s.setV r b).pc = s.pc := rfl
@[simp] theorem State.setV_stack (s : State) (r : Nibble) (b : Byte) : (s.setV r b).stack = s.stack := rfl
@[simp] theorem State.setV_dt (s : State) (r : Nibble) (b : Byte) : (s.setV r b).dt = s.dt := rfl
@[simp] theorem State.setV_st (s : State) (r : Nibble) (b : Byte) : (s.setV r b).st = s.st := rfl
@[simp] theorem State.setV_run (s : State) (r : Nibble) (b : Byte) : (s.setV r b).run = s.run := rfl
@[simp] theorem State.setV_waitX (s : State) (r : Nibble) (b : Byte) : (s.setV r b).waitX = s.waitX := rfl
@[simp] theorem State.setV_mem (s : State) (r : Nibble) (b : Byte) : (s.setV r b).mem = s.mem := rfl
@[simp] theorem State.setV_fb (s : State) (r : Nibble) (b : Byte) : (s.setV r b).fb = s.fb := rfl
@[simp] theorem State.setV_fault (s : State) (r : Nibble) (b : Byte) : (s.setV r b).fault = s.fault := rfl
@[simp] theorem State.setV_params (s : State) (r : Nibble) (b : Byte) : (s.setV r b).params = s.params := rfl
@[simp] theorem State.setV_inputs (s : State) (r : Nibble) (b : Byte) : (s.setV r b).inputs = s.inputs := rfl

/-! ### `setI` -/

@[simp] theorem State.setI_v (s : State) (w : Word) : (s.setI w).v = s.v := rfl
@[simp] theorem State.setI_i (s : State) (w : Word) : (s.setI w).i = w := rfl
@[simp] theorem State.setI_pc (s : State) (w : Word) : (s.setI w).pc = s.pc := rfl
@[simp] theorem State.setI_stack (s : State) (w : Word) : (s.setI w).stack = s.stack := rfl
@[simp] theorem State.setI_dt (s : State) (w : Word) : (s.setI w).dt = s.dt := rfl
@[simp] theorem State.setI_st (s : State) (w : Word) : (s.setI w).st = s.st := rfl
@[simp] theorem State.setI_run (s : State) (w : Word) : (s.setI w).run = s.run := rfl
@[simp] theorem State.setI_waitX (s : State) (w : Word) : (s.setI w).waitX = s.waitX := rfl
@[simp] theorem State.setI_mem (s : State) (w : Word) : (s.setI w).mem = s.mem := rfl
@[simp] theorem State.setI_fb (s : State) (w : Word) : (s.setI w).fb = s.fb := rfl
@[simp] theorem State.setI_fault (s : State) (w : Word) : (s.setI w).fault = s.fault := rfl
@[simp] theorem State.setI_params (s : State) (w : Word) : (s.setI w).params = s.params := rfl
@[simp] theorem State.setI_inputs (s : State) (w : Word) : (s.setI w).inputs = s.inputs := rfl
@[simp] theorem State.setI_getV (s : State) (w : Word) (q : Nibble) : (s.setI w).getV q = s.getV q := rfl

/-! ### `setPc` -/

@[simp] theorem State.setPc_v (s : State) (w : Word) : (s.setPc w).v = s.v := rfl
@[simp] theorem State.setPc_i (s : State) (w : Word) : (s.setPc w).i = s.i := rfl
@[simp] theorem State.setPc_pc (s : State) (w : Word) : (s.setPc w).pc = w := rfl
@[simp] theorem State.setPc_stack (s : State) (w : Word) : (s.setPc w).stack = s.stack := rfl
@[simp] theorem State.setPc_dt (s : State) (w : Word) : (s.setPc w).dt = s.dt := rfl
@[simp] theorem State.setPc_st (s : State) (w : Word) : (s.setPc w).st = s.st := rfl
@[simp] theorem State.setPc_run (s : State) (w : Word) : (s.setPc w).run = s.run := rfl
@[simp] theorem State.setPc_waitX (s : State) (w : Word) : (s.setPc w).waitX = s.waitX := rfl
@[simp] theorem State.setPc_mem (s : State) (w : Word) : (s.setPc w).mem = s.mem := rfl
@[simp] theorem State.setPc_fb (s : State) (w : Word) : (s.setPc w).fb = s.fb := rfl
@[simp] theorem State.setPc_fault (s : State) (w : Word) : (s.setPc w).fault = s.fault := rfl
@[simp] theorem State.setPc_params (s : State) (w : Word) : (s.setPc w).params = s.params := rfl
@[simp] theorem State.setPc_inputs (s : State) (w : Word) : (s.setPc w).inputs = s.inputs := rfl
@[simp] theorem State.setPc_getV (s : State) (w : Word) (q : Nibble) : (s.setPc w).getV q = s.getV q := rfl

/-! ### `setDT` -/

@[simp] theorem State.setDT_v (s : State) (b : Byte) : (s.setDT b).v = s.v := rfl
@[simp] theorem State.setDT_i (s : State) (b : Byte) : (s.setDT b).i = s.i := rfl
@[simp] theorem State.setDT_pc (s : State) (b : Byte) : (s.setDT b).pc = s.pc := rfl
@[simp] theorem State.setDT_stack (s : State) (b : Byte) : (s.setDT b).stack = s.stack := rfl
@[simp] theorem State.setDT_dt (s : State) (b : Byte) : (s.setDT b).dt = b := rfl
@[simp] theorem State.setDT_st (s : State) (b : Byte) : (s.setDT b).st = s.st := rfl
@[simp] theorem State.setDT_run (s : State) (b : Byte) : (s.setDT b).run = s.run := rfl
@[simp] theorem State.setDT_waitX (s : State) (b : Byte) : (s.setDT b).waitX = s.waitX := rfl
@[simp] theorem State.setDT_mem (s : State) (b : Byte) : (s.setDT b).mem = s.mem := rfl
@[simp] theorem State.setDT_fb (s : State) (b : Byte) : (s.setDT b).fb = s.fb := rfl
@[simp] theorem State.setDT_fault (s : State) (b : Byte) : (s.setDT b).fault = s.fault := rfl
@[simp] theorem State.setDT_params (s : State) (b : Byte) : (s.setDT b).params = s.params := rfl
@[simp] theorem State.setDT_inputs (s : State) (b : Byte) : (s.setDT b).inputs = s.inputs := rfl
@[simp] theorem State.setDT_getV (s : State) (b : Byte) (q : Nibble) : (s.setDT b).getV q = s.getV q := rfl

/-! ### `setST` -/

@[simp] theorem State.setST_v (s : State) (b : Byte) : (s.setST b).v = s.v := rfl
@[simp] theorem State.setST_i (s : State) (b : Byte) : (s.setST b).i = s.i := rfl
@[simp] theorem State.setST_pc (s : State) (b : Byte) : (s.setST b).pc = s.pc := rfl
@[simp] theorem State.setST_stack (s : State) (b : Byte) : (s.setST b).stack = s.stack := rfl
@[simp] theorem State.setST_dt (s : State) (b : Byte) : (s.setST b).dt = s.dt := rfl
@[simp] theorem State.setST_st (s : State) (b : Byte) : (s.setST b).st = b := rfl
@[simp] theorem State.setST_run (s : State) (b : Byte) : (s.setST b).run = s.run := rfl
@[simp] theorem State.setST_waitX (s : State) (b : Byte) : (s.setST b).waitX = s.waitX := rfl
@[simp] theorem State.setST_mem (s : State) (b : Byte) : (s.setST b).mem = s.mem := rfl
@[simp] theorem State.setST_fb (s : State) (b : Byte) : (s.setST b).fb = s.fb := rfl
@[simp] theorem State.setST_fault (s : State) (b : Byte) : (s.setST b).fault = s.fault := rfl
@[simp] theorem State.setST_params (s : State) (b : Byte) : (s.setST b).params = s.params := rfl
@[simp] theorem State.setST_inputs (s : State) (b : Byte) : (s.setST b).inputs = s.inputs := rfl
@[simp] theorem State.setST_getV (s : State) (b : Byte) (q : Nibble) : (s.setST b).getV q = s.getV q := rfl

/-! ### `setMem` -/

@[simp] theorem State.setMem_v (s : State) (m : Memory) : (s.setMem m).v = s.v := rfl
@[simp] theorem State.setMem_i (s : State) (m : Memory) : (s.setMem m).i = s.i := rfl
@[simp] theorem State.setMem_pc (s : State) (m : Memory) : (s.setMem m).pc = s.pc := rfl
@[simp] theorem State.setMem_stack (s : State) (m : Memory) : (s.setMem m).stack = s.stack := rfl
@[simp] theorem State.setMem_dt (s : State) (m : Memory) : (s.setMem m).dt = s.dt := rfl
@[simp] theorem State.setMem_st (s : State) (m : Memory) : (s.setMem m).st = s.st := rfl
@[simp] theorem State.setMem_run (s : State) (m : Memory) : (s.setMem m).run = s.run := rfl
@[simp] theorem State.setMem_waitX (s : State) (m : Memory) : (s.setMem m).waitX = s.waitX := rfl
@[simp] theorem State.setMem_mem (s : State) (m : Memory) : (s.setMem m).mem = m := rfl
@[simp] theorem State.setMem_fb (s : State) (m : Memory) : (s.setMem m).fb = s.fb := rfl
@[simp] theorem State.setMem_fault (s : State) (m : Memory) : (s.setMem m).fault = s.fault := rfl
@[simp] theorem State.setMem_params (s : State) (m : Memory) : (s.setMem m).params = s.params := rfl
@[simp] theorem State.setMem_inputs (s : State) (m : Memory) : (s.setMem m).inputs = s.inputs := rfl
@[simp] theorem State.setMem_getV (s : State) (m : Memory) (q : Nibble) : (s.setMem m).getV q = s.getV q := rfl

/-! ### `setFb` -/

@[simp] theorem State.setFb_v (s : State) (f : Framebuffer) : (s.setFb f).v = s.v := rfl
@[simp] theorem State.setFb_i (s : State) (f : Framebuffer) : (s.setFb f).i = s.i := rfl
@[simp] theorem State.setFb_pc (s : State) (f : Framebuffer) : (s.setFb f).pc = s.pc := rfl
@[simp] theorem State.setFb_stack (s : State) (f : Framebuffer) : (s.setFb f).stack = s.stack := rfl
@[simp] theorem State.setFb_dt (s : State) (f : Framebuffer) : (s.setFb f).dt = s.dt := rfl
@[simp] theorem State.setFb_st (s : State) (f : Framebuffer) : (s.setFb f).st = s.st := rfl
@[simp] theorem State.setFb_run (s : State) (f : Framebuffer) : (s.setFb f).run = s.run := rfl
@[simp] theorem State.setFb_waitX (s : State) (f : Framebuffer) : (s.setFb f).waitX = s.waitX := rfl
@[simp] theorem State.setFb_mem (s : State) (f : Framebuffer) : (s.setFb f).mem = s.mem := rfl
@[simp] theorem State.setFb_fb (s : State) (f : Framebuffer) : (s.setFb f).fb = f := rfl
@[simp] theorem State.setFb_fault (s : State) (f : Framebuffer) : (s.setFb f).fault = s.fault := rfl
@[simp] theorem State.setFb_params (s : State) (f : Framebuffer) : (s.setFb f).params = s.params := rfl
@[simp] theorem State.setFb_inputs (s : State) (f : Framebuffer) : (s.setFb f).inputs = s.inputs := rfl
@[simp] theorem State.setFb_getV (s : State) (f : Framebuffer) (q : Nibble) : (s.setFb f).getV q = s.getV q := rfl

/-! ### `setStack` -/

@[simp] theorem State.setStack_v (s : State) (l : List Word) : (s.setStack l).v = s.v := rfl
@[simp] theorem State.setStack_i (s : State) (l : List Word) : (s.setStack l).i = s.i := rfl
@[simp] theorem State.setStack_pc (s : State) (l : List Word) : (s.setStack l).pc = s.pc := rfl
@[simp] theorem State.setStack_stack (s : State) (l : List Word) : (s.setStack l).stack = l := rfl
@[simp] theorem State.setStack_dt (s : State) (l : List Word) : (s.setStack l).dt = s.dt := rfl
@[simp] theorem State.setStack_st (s : State) (l : List Word) : (s.setStack l).st = s.st := rfl
@[simp] theorem State.setStack_run (s : State) (l : List Word) : (s.setStack l).run = s.run := rfl
@[simp] theorem State.setStack_waitX (s : State) (l : List Word) : (s.setStack l).waitX = s.waitX := rfl
@[simp] theorem State.setStack_mem (s : State) (l : List Word) : (s.setStack l).mem = s.mem := rfl
@[simp] theorem State.setStack_fb (s : State) (l : List Word) : (s.setStack l).fb = s.fb := rfl
@[simp] theorem State.setStack_fault (s : State) (l : List Word) : (s.setStack l).fault = s.fault := rfl
@[simp] theorem State.setStack_params (s : State) (l : List Word) : (s.setStack l).params = s.params := rfl
@[simp] theorem State.setStack_inputs (s : State) (l : List Word) : (s.setStack l).inputs = s.inputs := rfl
@[simp] theorem State.setStack_getV (s : State) (l : List Word) (q : Nibble) : (s.setStack l).getV q = s.getV q := rfl

/-! ### `skipIf` -/

@[simp] theorem State.skipIf_v (s : State) (c : Bool) : (s.skipIf c).v = s.v := rfl
@[simp] theorem State.skipIf_i (s : State) (c : Bool) : (s.skipIf c).i = s.i := rfl
@[simp] theorem State.skipIf_pc (s : State) (c : Bool) : (s.skipIf c).pc = if c then s.pc + 2 else s.pc := rfl
@[simp] theorem State.skipIf_stack (s : State) (c : Bool) : (s.skipIf c).stack = s.stack := rfl
@[simp] theorem State.skipIf_dt (s : State) (c : Bool) : (s.skipIf c).dt = s.dt := rfl
@[simp] theorem State.skipIf_st (s : State) (c : Bool) : (s.skipIf c).st = s.st := rfl
@[simp] theorem State.skipIf_run (s : State) (c : Bool) : (s.skipIf c).run = s.run := rfl
@[simp] theorem State.skipIf_waitX (s : State) (c : Bool) : (s.skipIf c).waitX = s.waitX := rfl
@[simp] theorem State.skipIf_mem (s : State) (c : Bool) : (s.skipIf c).mem = s.mem := rfl
@[simp] theorem State.skipIf_fb (s : State) (c : Bool) : (s.skipIf c).fb = s.fb := rfl
@[simp] theorem State.skipIf_fault (s : State) (c : Bool) : (s.skipIf c).fault = s.fault := rfl
@[simp] theorem State.skipIf_params (s : State) (c : Bool) : (s.skipIf c).params = s.params := rfl
@[simp] theorem State.skipIf_inputs (s : State) (c : Bool) : (s.skipIf c).inputs = s.inputs := rfl
@[simp] theorem State.skipIf_getV (s : State) (c : Bool) (q : Nibble) : (s.skipIf c).getV q = s.getV q := rfl

/-! ### `advancePc` -/

@[simp] theorem State.advancePc_v (s : State) : (s.advancePc).v = s.v := rfl
@[simp] theorem State.advancePc_i (s : State) : (s.advancePc).i = s.i := rfl
@[simp] theorem State.advancePc_pc (s : State) : (s.advancePc).pc = s.pc + 2 := rfl
@[simp] theorem State.advancePc_stack (s : State) : (s.advancePc).stack = s.stack := rfl
@[simp] theorem State.advancePc_dt (s : State) : (s.advancePc).dt = s.dt := rfl
@[simp] theorem State.advancePc_st (s : State) : (s.advancePc).st = s.st := rfl
@[simp] theorem State.advancePc_run (s : State) : (s.advancePc).run = s.run := rfl
@[simp] theorem State.advancePc_waitX (s : State) : (s.advancePc).waitX = s.waitX := rfl
@[simp] theorem State.advancePc_mem (s : State) : (s.advancePc).mem = s.mem := rfl
@[simp] theorem State.advancePc_fb (s : State) : (s.advancePc).fb = s.fb := rfl
@[simp] theorem State.advancePc_fault (s : State) : (s.advancePc).fault = s.fault := rfl
@[simp] theorem State.advancePc_params (s : State) : (s.advancePc).params = s.params := rfl
@[simp] theorem State.advancePc_inputs (s : State) : (s.advancePc).inputs = s.inputs := rfl
@[simp] theorem State.advancePc_getV (s : State) (q : Nibble) : (s.advancePc).getV q = s.getV q := rfl

/-! ### `push` -/

@[simp] theorem State.push_v (s : State) (w : Word) : (s.push w).v = s.v := rfl
@[simp] theorem State.push_i (s : State) (w : Word) : (s.push w).i = s.i := rfl
@[simp] theorem State.push_pc (s : State) (w : Word) : (s.push w).pc = s.pc := rfl
@[simp] theorem State.push_stack (s : State) (w : Word) : (s.push w).stack = s.stack ++ [w] := rfl
@[simp] theorem State.push_dt (s : State) (w : Word) : (s.push w).dt = s.dt := rfl
@[simp] theorem State.push_st (s : State) (w : Word) : (s.push w).st = s.st := rfl
@[simp] theorem State.push_run (s : State) (w : Word) : (s.push w).run = s.run := rfl
@[simp] theorem State.push_waitX (s : State) (w : Word) : (s.push w).waitX = s.waitX := rfl
@[simp] theorem State.push_mem (s : State) (w : Word) : (s.push w).mem = s.mem := rfl
@[simp] theorem State.push_fb (s : State) (w : Word) : (s.push w).fb = s.fb := rfl
@[simp] theorem State.push_fault (s : State) (w : Word) : (s.push w).fault = s.fault := rfl
@[simp] theorem State.push_params (s : State) (w : Word) : (s.push w).params = s.params := rfl
@[simp] theorem State.push_inputs (s : State) (w : Word) : (s.push w).inputs = s.inputs := rfl
@[simp] theorem State.push_getV (s : State) (w : Word) (q : Nibble) : (s.push w).getV q = s.getV q := rfl

/-! ### `raise` and `raiseIn` -/

@[simp] theorem State.raise_v (s : State) (r : FaultRecord) : (s.raise r).v = s.v := rfl
@[simp] theorem State.raise_i (s : State) (r : FaultRecord) : (s.raise r).i = s.i := rfl
@[simp] theorem State.raise_pc (s : State) (r : FaultRecord) : (s.raise r).pc = s.pc := rfl
@[simp] theorem State.raise_stack (s : State) (r : FaultRecord) : (s.raise r).stack = s.stack := rfl
@[simp] theorem State.raise_dt (s : State) (r : FaultRecord) : (s.raise r).dt = s.dt := rfl
@[simp] theorem State.raise_st (s : State) (r : FaultRecord) : (s.raise r).st = s.st := rfl
@[simp] theorem State.raise_run (s : State) (r : FaultRecord) : (s.raise r).run = .halted := rfl
@[simp] theorem State.raise_waitX (s : State) (r : FaultRecord) : (s.raise r).waitX = s.waitX := rfl
@[simp] theorem State.raise_mem (s : State) (r : FaultRecord) : (s.raise r).mem = s.mem := rfl
@[simp] theorem State.raise_fb (s : State) (r : FaultRecord) : (s.raise r).fb = s.fb := rfl
@[simp] theorem State.raise_fault (s : State) (r : FaultRecord) : (s.raise r).fault = some r := rfl
@[simp] theorem State.raise_params (s : State) (r : FaultRecord) : (s.raise r).params = s.params := rfl
@[simp] theorem State.raise_inputs (s : State) (r : FaultRecord) : (s.raise r).inputs = s.inputs := rfl
@[simp] theorem State.raise_getV (s : State) (r : FaultRecord) (q : Nibble) :
    (s.raise r).getV q = s.getV q := rfl
@[simp] theorem State.raiseIn_v (s : State) (i : Instr) (k : FaultKind) (a : Option Nat) :
    (s.raiseIn i k a).v = s.v := rfl
@[simp] theorem State.raiseIn_i (s : State) (i : Instr) (k : FaultKind) (a : Option Nat) :
    (s.raiseIn i k a).i = s.i := rfl
@[simp] theorem State.raiseIn_pc (s : State) (i : Instr) (k : FaultKind) (a : Option Nat) :
    (s.raiseIn i k a).pc = s.pc := rfl
@[simp] theorem State.raiseIn_stack (s : State) (i : Instr) (k : FaultKind) (a : Option Nat) :
    (s.raiseIn i k a).stack = s.stack := rfl
@[simp] theorem State.raiseIn_dt (s : State) (i : Instr) (k : FaultKind) (a : Option Nat) :
    (s.raiseIn i k a).dt = s.dt := rfl
@[simp] theorem State.raiseIn_st (s : State) (i : Instr) (k : FaultKind) (a : Option Nat) :
    (s.raiseIn i k a).st = s.st := rfl
@[simp] theorem State.raiseIn_run (s : State) (i : Instr) (k : FaultKind) (a : Option Nat) :
    (s.raiseIn i k a).run = .halted := rfl
@[simp] theorem State.raiseIn_waitX (s : State) (i : Instr) (k : FaultKind) (a : Option Nat) :
    (s.raiseIn i k a).waitX = s.waitX := rfl
@[simp] theorem State.raiseIn_mem (s : State) (i : Instr) (k : FaultKind) (a : Option Nat) :
    (s.raiseIn i k a).mem = s.mem := rfl
@[simp] theorem State.raiseIn_fb (s : State) (i : Instr) (k : FaultKind) (a : Option Nat) :
    (s.raiseIn i k a).fb = s.fb := rfl
@[simp] theorem State.raiseIn_fault (s : State) (i : Instr) (k : FaultKind) (a : Option Nat) :
    (s.raiseIn i k a).fault = some { kind := k, pcOfInsn := s.pc - 2, word := some (encode i), addr := a } := rfl
@[simp] theorem State.raiseIn_params (s : State) (i : Instr) (k : FaultKind) (a : Option Nat) :
    (s.raiseIn i k a).params = s.params := rfl
@[simp] theorem State.raiseIn_inputs (s : State) (i : Instr) (k : FaultKind) (a : Option Nat) :
    (s.raiseIn i k a).inputs = s.inputs := rfl
@[simp] theorem State.raiseIn_getV (s : State) (i : Instr) (k : FaultKind) (a : Option Nat) (q : Nibble) :
    (s.raiseIn i k a).getV q = s.getV q := rfl

/-! ### Draws change nothing but `inputs` -/

@[simp] theorem State.queryKey_v (s : State) (k : Nibble) : (s.queryKey k).2.v = s.v := by
  unfold State.queryKey; split <;> rfl
@[simp] theorem State.queryKey_i (s : State) (k : Nibble) : (s.queryKey k).2.i = s.i := by
  unfold State.queryKey; split <;> rfl
@[simp] theorem State.queryKey_pc (s : State) (k : Nibble) : (s.queryKey k).2.pc = s.pc := by
  unfold State.queryKey; split <;> rfl
@[simp] theorem State.queryKey_stack (s : State) (k : Nibble) : (s.queryKey k).2.stack = s.stack := by
  unfold State.queryKey; split <;> rfl
@[simp] theorem State.queryKey_dt (s : State) (k : Nibble) : (s.queryKey k).2.dt = s.dt := by
  unfold State.queryKey; split <;> rfl
@[simp] theorem State.queryKey_st (s : State) (k : Nibble) : (s.queryKey k).2.st = s.st := by
  unfold State.queryKey; split <;> rfl
@[simp] theorem State.queryKey_run (s : State) (k : Nibble) : (s.queryKey k).2.run = s.run := by
  unfold State.queryKey; split <;> rfl
@[simp] theorem State.queryKey_waitX (s : State) (k : Nibble) : (s.queryKey k).2.waitX = s.waitX := by
  unfold State.queryKey; split <;> rfl
@[simp] theorem State.queryKey_mem (s : State) (k : Nibble) : (s.queryKey k).2.mem = s.mem := by
  unfold State.queryKey; split <;> rfl
@[simp] theorem State.queryKey_fb (s : State) (k : Nibble) : (s.queryKey k).2.fb = s.fb := by
  unfold State.queryKey; split <;> rfl
@[simp] theorem State.queryKey_fault (s : State) (k : Nibble) : (s.queryKey k).2.fault = s.fault := by
  unfold State.queryKey; split <;> rfl
@[simp] theorem State.queryKey_params (s : State) (k : Nibble) : (s.queryKey k).2.params = s.params := by
  unfold State.queryKey; split <;> rfl
@[simp] theorem State.queryKey_getV (s : State) (k : Nibble) (q : Nibble) : (s.queryKey k).2.getV q = s.getV q := by
  unfold State.queryKey; split <;> rfl
/-- A draw is counted, whether its answer was lined up or not. -/
@[simp] theorem State.queryKey_drawCount (s : State) (k : Nibble) :
    (s.queryKey k).2.inputs.drawCount = s.inputs.drawCount + 1 := by
  unfold State.queryKey; split <;> rfl
@[simp] theorem State.randomByte_v (s : State) : (s.randomByte).2.v = s.v := by
  unfold State.randomByte; split <;> rfl
@[simp] theorem State.randomByte_i (s : State) : (s.randomByte).2.i = s.i := by
  unfold State.randomByte; split <;> rfl
@[simp] theorem State.randomByte_pc (s : State) : (s.randomByte).2.pc = s.pc := by
  unfold State.randomByte; split <;> rfl
@[simp] theorem State.randomByte_stack (s : State) : (s.randomByte).2.stack = s.stack := by
  unfold State.randomByte; split <;> rfl
@[simp] theorem State.randomByte_dt (s : State) : (s.randomByte).2.dt = s.dt := by
  unfold State.randomByte; split <;> rfl
@[simp] theorem State.randomByte_st (s : State) : (s.randomByte).2.st = s.st := by
  unfold State.randomByte; split <;> rfl
@[simp] theorem State.randomByte_run (s : State) : (s.randomByte).2.run = s.run := by
  unfold State.randomByte; split <;> rfl
@[simp] theorem State.randomByte_waitX (s : State) : (s.randomByte).2.waitX = s.waitX := by
  unfold State.randomByte; split <;> rfl
@[simp] theorem State.randomByte_mem (s : State) : (s.randomByte).2.mem = s.mem := by
  unfold State.randomByte; split <;> rfl
@[simp] theorem State.randomByte_fb (s : State) : (s.randomByte).2.fb = s.fb := by
  unfold State.randomByte; split <;> rfl
@[simp] theorem State.randomByte_fault (s : State) : (s.randomByte).2.fault = s.fault := by
  unfold State.randomByte; split <;> rfl
@[simp] theorem State.randomByte_params (s : State) : (s.randomByte).2.params = s.params := by
  unfold State.randomByte; split <;> rfl
@[simp] theorem State.randomByte_getV (s : State) (q : Nibble) : (s.randomByte).2.getV q = s.getV q := by
  unfold State.randomByte; split <;> rfl
/-- A draw is counted, whether its answer was lined up or not. -/
@[simp] theorem State.randomByte_drawCount (s : State) :
    (s.randomByte).2.inputs.drawCount = s.inputs.drawCount + 1 := by
  unfold State.randomByte; split <;> rfl

/-! ### Timers -/

@[simp] theorem State.tick_v (s : State) : s.tick.v = s.v := rfl
@[simp] theorem State.tick_i (s : State) : s.tick.i = s.i := rfl
@[simp] theorem State.tick_pc (s : State) : s.tick.pc = s.pc := rfl
@[simp] theorem State.tick_stack (s : State) : s.tick.stack = s.stack := rfl
@[simp] theorem State.tick_dt (s : State) : s.tick.dt = tickTimer s.dt := rfl
@[simp] theorem State.tick_st (s : State) : s.tick.st = tickTimer s.st := rfl
@[simp] theorem State.tick_run (s : State) : s.tick.run = s.run := rfl
@[simp] theorem State.tick_waitX (s : State) : s.tick.waitX = s.waitX := rfl
@[simp] theorem State.tick_mem (s : State) : s.tick.mem = s.mem := rfl
@[simp] theorem State.tick_fb (s : State) : s.tick.fb = s.fb := rfl
@[simp] theorem State.tick_fault (s : State) : s.tick.fault = s.fault := rfl
@[simp] theorem State.tick_params (s : State) : s.tick.params = s.params := rfl
@[simp] theorem State.tick_inputs (s : State) : s.tick.inputs = s.inputs := rfl

/-- One tick takes exactly 1 off a positive timer and leaves a zero one (R129). -/
@[simp] theorem tickTimer_toNat (t : Byte) : (tickTimer t).toNat = t.toNat - 1 := by
  unfold tickTimer
  split <;> bv_omega

/-! ### Registers -/

/-- Reading a register after writing one (R15). -/
theorem State.getV_setV (s : State) (r q : Nibble) (b : Byte) :
    (s.setV r b).getV q = if q = r then b else s.getV q := by
  unfold State.getV State.setV
  split
  · subst q; simp
  · rename_i h
    exact Vector.getElem_set_ne r.isLt q.isLt (fun e => h (BitVec.eq_of_toNat_eq e.symm))

@[simp] theorem State.getV_setV_same (s : State) (r : Nibble) (b : Byte) : (s.setV r b).getV r = b := by
  simp [State.getV_setV]

@[simp] theorem State.getV_setV_other (s : State) {r q : Nibble} (b : Byte) (h : q ≠ r) :
    (s.setV r b).getV q = s.getV q := by
  simp [State.getV_setV, h]

/-- Two states with the same registers and equal other fields are equal: registers are compared by
`getV`. -/
theorem v_ext {v w : Vector Byte 16} (h : ∀ r : Nibble, v[r.toNat]'r.isLt = w[r.toNat]'r.isLt) :
    v = w := by
  apply Vector.ext
  intro k hk
  simpa [BitVec.toNat_ofNat, Nat.mod_eq_of_lt hk] using h (BitVec.ofNat 4 k)

/-- A register block load (R108): register q takes the byte at its distance from the first register
loaded, and keeps its value outside the block. -/
theorem loadV_getElem (bs : List Byte) (v : Vector Byte 16) (k q : Nat) (hq : q < 16) :
    (loadV v k bs)[q] = if h : k ≤ q ∧ q - k < bs.length then bs[q - k]'h.2 else v[q] := by
  induction bs generalizing v k with
  | nil => simp [loadV]
  | cons b bs ih =>
    rw [loadV, ih]
    by_cases hk : k = q
    · subst hk; simp
    · by_cases h : k + 1 ≤ q
      · have e : q - k = (q - (k + 1)) + 1 := by omega
        by_cases h2 : q - (k + 1) < bs.length
        · simp [h, h2, e, Nat.le_of_succ_le h]
        · have h3 : ¬ (q - k < bs.length + 1) := by omega
          simp [h2, h3, Vector.getElem_setIfInBounds_ne, hk]
      · have h3 : ¬ k ≤ q := by omega
        simp [h, h3, Vector.getElem_setIfInBounds_ne, hk]

end Sys2Proof.Machine
end

