-- ==== Sys2Proof/Laws/Exec.lean ====
section
/-! SUPPORT. What each instruction that can fault, and a step, can do, said once; later proofs cite these
and do not unfold the meanings. -/

namespace Sys2Proof.Machine

/-- Every instruction answers a next state: raising a fault is one (R116). -/
theorem exec_next (i : Instr) (s : State) : ∃ t, exec i s = .next t := by
  cases i <;> first | exact ⟨_, rfl⟩ | skip
  case ret => simp only [exec, execRet]; split <;> exact ⟨_, rfl⟩
  case call => simp only [exec, execCall]; split <;> exact ⟨_, rfl⟩
  case drw => simp only [exec, execDrw]; split <;> exact ⟨_, rfl⟩
  case skp => simp only [exec, execSkp]; split <;> exact ⟨_, rfl⟩
  case sknp => simp only [exec, execSknp]; split <;> exact ⟨_, rfl⟩
  case ldB => simp only [exec, execLdB]; split <;> exact ⟨_, rfl⟩
  case storeRegs => simp only [exec, execStoreRegs]; split <;> exact ⟨_, rfl⟩
  case loadRegs => simp only [exec, execLoadRegs]; split <;> exact ⟨_, rfl⟩

/-- 00EE (R81): an underflow, or a pop. -/
theorem execRet_cases {s t : State} (h : execRet s = .next t) :
    (s.stack = [] ∧ t = s.raiseIn .ret .stackUnderflow none) ∨
      ∃ rest w, s.stack = rest ++ [w] ∧ t = (s.setStack rest).setPc w := by
  unfold execRet at h
  split at h
  · rename_i hn
    exact .inl ⟨List.getLast?_eq_none_iff.mp hn, (Host.Outcome.next.inj h).symm⟩
  · rename_i w hw
    obtain ⟨rest, hr⟩ := List.getLast?_eq_some_iff.mp hw
    refine .inr ⟨rest, w, hr, ?_⟩
    rw [← Host.Outcome.next.inj h, hr, List.dropLast_concat]

/-- 2nnn (R83): an overflow, or a push and a jump. -/
theorem execCall_cases {nnn : Addr12} {s t : State} (h : execCall nnn s = .next t) :
    (s.stackFull = true ∧ t = s.raiseIn (.call nnn) .stackOverflow none) ∨
      (s.stackFull = false ∧ t = (s.push s.pc).setPc (addressOf nnn)) := by
  unfold execCall at h
  split at h
  · exact .inl ⟨‹_›, (Host.Outcome.next.inj h).symm⟩
  · exact .inr ⟨Bool.eq_false_iff.mpr ‹_›, (Host.Outcome.next.inj h).symm⟩

/-- Dxyn (R77): a read out of range, or the drawing. -/
theorem execDrw_cases {x y n : Nibble} {s t : State} (h : execDrw x y n s = .next t) :
    (∃ kind addr, firstFailure checkRead s.i.toNat n.toNat = some (kind, addr) ∧
        t = s.raiseIn (.drw x y n) kind (some addr)) ∨
      (firstFailure checkRead s.i.toNat n.toNat = none ∧
        t = (s.setFb (drawSprite s.fb (s.getV x).toNat (s.getV y).toNat
              (s.mem.readBlock s.i.toNat n.toNat)).1).setV vf
            (collisionFlag (drawSprite s.fb (s.getV x).toNat (s.getV y).toNat
              (s.mem.readBlock s.i.toNat n.toNat)).2)) := by
  unfold execDrw at h
  split at h
  · exact .inl ⟨_, _, ‹_›, (Host.Outcome.next.inj h).symm⟩
  · exact .inr ⟨‹_›, (Host.Outcome.next.inj h).symm⟩

/-- Fx33 (R106): a failed write check, or the store. -/
theorem execLdB_cases {x : Nibble} {s t : State} (h : execLdB x s = .next t) :
    (∃ kind addr, firstFailure (checkWrite s.params.protectLowMemory) s.i.toNat 3 = some (kind, addr) ∧
        t = s.raiseIn (.ldB x) kind (some addr)) ∨
      (firstFailure (checkWrite s.params.protectLowMemory) s.i.toNat 3 = none ∧
        t = s.setMem (s.mem.writeBlock s.i.toNat (bcdDigits (s.getV x)))) := by
  unfold execLdB at h
  split at h
  · exact .inl ⟨_, _, ‹_›, (Host.Outcome.next.inj h).symm⟩
  · exact .inr ⟨‹_›, (Host.Outcome.next.inj h).symm⟩

/-- Fx55 (R107): a failed write check, or the store. -/
theorem execStoreRegs_cases {x : Nibble} {s t : State} (h : execStoreRegs x s = .next t) :
    (∃ kind addr,
        firstFailure (checkWrite s.params.protectLowMemory) s.i.toNat (x.toNat + 1) = some (kind, addr) ∧
        t = s.raiseIn (.storeRegs x) kind (some addr)) ∨
      (firstFailure (checkWrite s.params.protectLowMemory) s.i.toNat (x.toNat + 1) = none ∧
        t = s.setMem (s.mem.writeBlock s.i.toNat (s.firstRegs x))) := by
  unfold execStoreRegs at h
  split at h
  · exact .inl ⟨_, _, ‹_›, (Host.Outcome.next.inj h).symm⟩
  · exact .inr ⟨‹_›, (Host.Outcome.next.inj h).symm⟩

/-- Fx65 (R108): a read out of range, or the load. -/
theorem execLoadRegs_cases {x : Nibble} {s t : State} (h : execLoadRegs x s = .next t) :
    (∃ kind addr, firstFailure checkRead s.i.toNat (x.toNat + 1) = some (kind, addr) ∧
        t = s.raiseIn (.loadRegs x) kind (some addr)) ∨
      (firstFailure checkRead s.i.toNat (x.toNat + 1) = none ∧
        t = { s with v := loadV s.v 0 (s.mem.readBlock s.i.toNat (x.toNat + 1)) }) := by
  unfold execLoadRegs at h
  split at h
  · exact .inl ⟨_, _, ‹_›, (Host.Outcome.next.inj h).symm⟩
  · exact .inr ⟨‹_›, (Host.Outcome.next.inj h).symm⟩

/-- Ex9E (R109): an invalid key, or a query and perhaps a skip. -/
theorem execSkp_cases {x : Nibble} {s t : State} (h : execSkp x s = .next t) :
    (0xF < (s.getV x).toNat ∧ t = s.raiseIn (.skp x) .invalidKey none) ∨
      ((s.getV x).toNat ≤ 0xF ∧ t = (s.queryKey ((s.getV x).setWidth 4)).2.skipIf
        (s.queryKey ((s.getV x).setWidth 4)).1) := by
  unfold execSkp at h
  split at h
  · exact .inr ⟨by simpa [keyWf] using ‹keyWf _ = true›, (Host.Outcome.next.inj h).symm⟩
  · exact .inl ⟨by simpa [keyWf] using ‹¬keyWf _ = true›, (Host.Outcome.next.inj h).symm⟩

/-- ExA1 (R110): an invalid key, or a query and perhaps a skip. -/
theorem execSknp_cases {x : Nibble} {s t : State} (h : execSknp x s = .next t) :
    (0xF < (s.getV x).toNat ∧ t = s.raiseIn (.sknp x) .invalidKey none) ∨
      ((s.getV x).toNat ≤ 0xF ∧ t = (s.queryKey ((s.getV x).setWidth 4)).2.skipIf
        (!(s.queryKey ((s.getV x).setWidth 4)).1)) := by
  unfold execSknp at h
  split at h
  · exact .inr ⟨by simpa [keyWf] using ‹keyWf _ = true›, (Host.Outcome.next.inj h).symm⟩
  · exact .inl ⟨by simpa [keyWf] using ‹¬keyWf _ = true›, (Host.Outcome.next.inj h).symm⟩

/-- A registers-to-memory block holds register k at distance k (R107). -/
theorem firstRegs_getElem (s : State) (x : Nibble) (k : Nat) (h : k < (s.firstRegs x).length) :
    (s.firstRegs x)[k] = s.v[k]'(by simp [State.firstRegs] at h; omega) := by
  simp [State.firstRegs]

@[simp] theorem firstRegs_length (s : State) (x : Nibble) : (s.firstRegs x).length = x.toNat + 1 := by
  simp [State.firstRegs]
  omega

@[simp] theorem bcdDigits_length (b : Byte) : (bcdDigits b).length = 3 := rfl

/-- What a fetch gives (R57): the first address above 0xFFF, or the word at pc. -/
theorem fetch_cases (s : State) :
    (0xFFE < s.pc.toNat ∧
        s.fetch = .outOfRange (if 0xFFF < s.pc.toNat then s.pc.toNat else s.pc.toNat + 1)) ∨
      (s.pc.toNat ≤ 0xFFE ∧
        s.fetch = .word (wordOfBytes (s.mem.get s.pc.toNat) (s.mem.get (s.pc.toNat + 1)))) := by
  unfold State.fetch
  split
  · exact .inl ⟨by omega, rfl⟩
  · exact .inr ⟨by omega, rfl⟩

/-- Everything a step that answers a next state can do (R57): keep a waiting core as it is; raise
`FetchOutOfRange`; raise `UnknownOpcode` after the PC advance; or execute the decoded instruction after
the PC advance. -/
theorem step_cases {s t : State} (h : step s = .next t) :
    s.fault = none ∧
      ((s.run = .waitingForKey ∧ t = s) ∨
        (s.run = .running ∧ ∃ addr, s.fetch = .outOfRange addr ∧
          t = s.raise ⟨.fetchOutOfRange, s.pc, none, some addr⟩) ∨
        (s.run = .running ∧ ∃ w, s.fetch = .word w ∧ decode w = none ∧
          t = s.advancePc.raise ⟨.unknownOpcode, s.pc, some w, none⟩) ∨
        (s.run = .running ∧ ∃ w i, s.fetch = .word w ∧ decode w = some i ∧
          exec i s.advancePc = .next t)) := by
  unfold step at h
  split at h
  · cases h
  · cases h
  · exact ⟨‹_›, .inl ⟨‹_›, (Host.Outcome.next.inj h).symm⟩⟩
  · refine ⟨‹_›, .inr ?_⟩
    unfold stepRunning at h
    split at h
    · exact .inl ⟨‹_›, _, ‹_›, (Host.Outcome.next.inj h).symm⟩
    · split at h
      · exact .inr (.inr ⟨‹_›, _, _, ‹_›, ‹_›, h⟩)
      · exact .inr (.inl ⟨‹_›, _, ‹_›, ‹_›, (Host.Outcome.next.inj h).symm⟩)

/-- A step of a core that is neither halted nor faulted answers a next state. -/
theorem step_next {s : State} (hf : s.fault = none) (hr : s.run ≠ .halted) : ∃ t, step s = .next t := by
  unfold step
  rw [hf]
  cases hrun : s.run with
  | halted => exact absurd hrun hr
  | waitingForKey => exact ⟨s, rfl⟩
  | running =>
    simp only [stepRunning]
    split
    · exact ⟨_, rfl⟩
    · split
      · exact exec_next _ _
      · exact ⟨_, rfl⟩

end Sys2Proof.Machine
end

