-- ==== Sys2Proof/Laws/HostOps.lean ====
section
/-! SUPPORT. What the operations of Machine/HostOps.lean and the draws can do, and the lemmas that turn the
fixed digits of a row into `EncodedAs`. -/

namespace Sys2Proof.Machine

/-- A row that fixes the top digit (R58, R61). -/
theorem encodedAs_of_op {b : Word} {f : Word → Instr}
    (h : ∀ w, fieldOp w = fieldOp b → decode w = some (f w)) : EncodedAs b 0xF000 f :=
  fun w hw => h w (fields_of_mask_F000 hw)

/-- A row that fixes the top and the bottom digit. -/
theorem encodedAs_of_op_n {b : Word} {f : Word → Instr}
    (h : ∀ w, fieldOp w = fieldOp b → fieldN w = fieldN b → decode w = some (f w)) :
    EncodedAs b 0xF00F f :=
  fun w hw => h w (fields_of_mask_F00F hw).1 (fields_of_mask_F00F hw).2

/-- A row that fixes the top digit and the low byte. -/
theorem encodedAs_of_op_kk {b : Word} {f : Word → Instr}
    (h : ∀ w, fieldOp w = fieldOp b → fieldKK w = fieldKK b → decode w = some (f w)) :
    EncodedAs b 0xF0FF f :=
  fun w hw => h w (fields_of_mask_F0FF hw).1 (fields_of_mask_F0FF hw).2

/-- A write check passes exactly on the addresses a program may write (R44). -/
theorem checkWrite_none_iff_mayWrite (s : State) (a : Nat) :
    checkWrite s.params.protectLowMemory a = none ↔ s.mayWrite a :=
  checkWrite_eq_none

/-- A query changes nothing but the lined-up answers and the draw counter (R125). -/
theorem queryKey_frame (s : State) (k : Nibble) :
    (s.queryKey k).2 = { s with inputs := (s.queryKey k).2.inputs } := by
  unfold State.queryKey
  split <;> rfl

/-- A query answers what the environment answers about that key (R125). -/
theorem queryKey_answers (s : State) (k : Nibble) : AnswersQuery k (s.queryKey k).1 s.inputs := by
  unfold AnswersQuery State.queryKey
  split <;> simp_all

/-- A query takes one answer from the environment (R125). -/
theorem queryKey_taken (s : State) (k : Nibble) : QueryTakenFrom s.inputs (s.queryKey k).2.inputs := by
  unfold QueryTakenFrom State.queryKey
  split <;> simp_all

/-- What a block store leaves at every address (R44). -/
theorem get_writeBlock_eq_byteAfterStore {m : Memory} (hm : m.wf = true) {base n : Nat} {bs : List Byte}
    {f : Nat → Byte} (hl : base + bs.length ≤ Config.memSize) (hn : bs.length = n)
    (hf : ∀ (k : Nat) (h : k < bs.length), bs[k] = f k) (a : Nat) :
    (m.writeBlock base bs).get a = byteAfterStore m base n f a := by
  subst hn
  rw [Memory.get_writeBlock hm (.inr hl), byteAfterStore]
  by_cases h : base ≤ a ∧ a - base < bs.length
  · rw [dif_pos h, if_pos (by omega), hf]
  · rw [dif_neg h, if_neg (by omega)]

/-- A random draw changes nothing but the lined-up bytes and the draw counter (R128). -/
theorem randomByte_frame (s : State) :
    s.randomByte.2 = { s with inputs := s.randomByte.2.inputs } := by
  unfold State.randomByte
  split <;> rfl

/-- Everything a reset that starts a session does (R142). -/
theorem resetWith_cases {s t : State} {p : Params} {font rom : List Byte}
    (h : s.resetWith p font rom = .next t) :
    romWf rom = true ∧ fontWf font = true ∧ p.wf = true ∧
      t = { resetState p font rom with inputs := s.inputs } := by
  unfold State.resetWith at h
  split at h
  · cases h
  · split at h
    · cases h
    · split at h
      · cases h
      · cases h
        simp_all

/-- A reset with arguments that the spec allows starts a session (R142). -/
theorem resetWith_next {s : State} {p : Params} {font rom : List Byte} (hr : romWf rom = true)
    (hf : fontWf font = true) (hp : p.wf = true) :
    s.resetWith p font rom = .next { resetState p font rom with inputs := s.inputs } := by
  simp [State.resetWith, hr, hf, hp]

/-- Every address past the font reads as zero while unlisted (R32, D22). -/
theorem resetByte_of_ge {a : Nat} (h : 80 ≤ a) : resetByte a = 0 := by
  have hl : defaultFont.length = 80 := by decide
  simp [resetByte, List.getElem?_eq_none_iff.mpr (show defaultFont.length ≤ a by omega)]

end Sys2Proof.Machine
end

