-- ==== Sys2Proof/Laws/PerInstr.lean ====
section
/-! SUPPORT. Statements made per instruction: the word that the encoder gives an instruction matches the
row of R62 that the instruction belongs to (spec/30_encoding.md R59, R61). -/

namespace Sys2Proof.Laws

namespace EncodingMatchesRow

/-- The instruction's word has the fixed digits of its row. -/
def Statement (i : Instr) : Prop :=
  i.row.holds (encode i) = true

theorem cls : Statement .cls := rfl

theorem ret : Statement .ret := rfl

theorem jp (nnn : Addr12) : Statement (.jp nnn) := by
  simp only [Statement, Instr.row, OpcodeRow.holds, encode, encodeNNN_mask]
  decide

theorem call (nnn : Addr12) : Statement (.call nnn) := by
  simp only [Statement, Instr.row, OpcodeRow.holds, encode, encodeNNN_mask]
  decide

theorem seImm (x : Nibble) (kk : Byte) : Statement (.seImm x kk) := by
  simp only [Statement, Instr.row, OpcodeRow.holds, encode, encodeXKK_mask]
  decide

theorem sneImm (x : Nibble) (kk : Byte) : Statement (.sneImm x kk) := by
  simp only [Statement, Instr.row, OpcodeRow.holds, encode, encodeXKK_mask]
  decide

theorem seReg (x : Nibble) (y : Nibble) : Statement (.seReg x y) := by
  simp only [Statement, Instr.row, OpcodeRow.holds, encode, encodeXYN_mask_low]
  decide

theorem ldImm (x : Nibble) (kk : Byte) : Statement (.ldImm x kk) := by
  simp only [Statement, Instr.row, OpcodeRow.holds, encode, encodeXKK_mask]
  decide

theorem addImm (x : Nibble) (kk : Byte) : Statement (.addImm x kk) := by
  simp only [Statement, Instr.row, OpcodeRow.holds, encode, encodeXKK_mask]
  decide

theorem ldReg (x : Nibble) (y : Nibble) : Statement (.ldReg x y) := by
  simp only [Statement, Instr.row, OpcodeRow.holds, encode, encodeXYN_mask_low]
  decide

theorem orReg (x : Nibble) (y : Nibble) : Statement (.orReg x y) := by
  simp only [Statement, Instr.row, OpcodeRow.holds, encode, encodeXYN_mask_low]
  decide

theorem andReg (x : Nibble) (y : Nibble) : Statement (.andReg x y) := by
  simp only [Statement, Instr.row, OpcodeRow.holds, encode, encodeXYN_mask_low]
  decide

theorem xorReg (x : Nibble) (y : Nibble) : Statement (.xorReg x y) := by
  simp only [Statement, Instr.row, OpcodeRow.holds, encode, encodeXYN_mask_low]
  decide

theorem addReg (x : Nibble) (y : Nibble) : Statement (.addReg x y) := by
  simp only [Statement, Instr.row, OpcodeRow.holds, encode, encodeXYN_mask_low]
  decide

theorem sub (x : Nibble) (y : Nibble) : Statement (.sub x y) := by
  simp only [Statement, Instr.row, OpcodeRow.holds, encode, encodeXYN_mask_low]
  decide

theorem shr (x : Nibble) (y : Nibble) : Statement (.shr x y) := by
  simp only [Statement, Instr.row, OpcodeRow.holds, encode, encodeXYN_mask_low]
  decide

theorem subn (x : Nibble) (y : Nibble) : Statement (.subn x y) := by
  simp only [Statement, Instr.row, OpcodeRow.holds, encode, encodeXYN_mask_low]
  decide

theorem shl (x : Nibble) (y : Nibble) : Statement (.shl x y) := by
  simp only [Statement, Instr.row, OpcodeRow.holds, encode, encodeXYN_mask_low]
  decide

theorem sneReg (x : Nibble) (y : Nibble) : Statement (.sneReg x y) := by
  simp only [Statement, Instr.row, OpcodeRow.holds, encode, encodeXYN_mask_low]
  decide

theorem ldI (nnn : Addr12) : Statement (.ldI nnn) := by
  simp only [Statement, Instr.row, OpcodeRow.holds, encode, encodeNNN_mask]
  decide

theorem jpV0 (nnn : Addr12) : Statement (.jpV0 nnn) := by
  simp only [Statement, Instr.row, OpcodeRow.holds, encode, encodeNNN_mask]
  decide

theorem rnd (x : Nibble) (kk : Byte) : Statement (.rnd x kk) := by
  simp only [Statement, Instr.row, OpcodeRow.holds, encode, encodeXKK_mask]
  decide

theorem drw (x : Nibble) (y : Nibble) (n : Nibble) : Statement (.drw x y n) := by
  simp only [Statement, Instr.row, OpcodeRow.holds, encode, encodeXYN_mask]
  decide

theorem skp (x : Nibble) : Statement (.skp x) := by
  simp only [Statement, Instr.row, OpcodeRow.holds, encode, encodeXKK_mask_low]
  decide

theorem sknp (x : Nibble) : Statement (.sknp x) := by
  simp only [Statement, Instr.row, OpcodeRow.holds, encode, encodeXKK_mask_low]
  decide

theorem ldVxDT (x : Nibble) : Statement (.ldVxDT x) := by
  simp only [Statement, Instr.row, OpcodeRow.holds, encode, encodeXKK_mask_low]
  decide

theorem ldVxK (x : Nibble) : Statement (.ldVxK x) := by
  simp only [Statement, Instr.row, OpcodeRow.holds, encode, encodeXKK_mask_low]
  decide

theorem ldDTVx (x : Nibble) : Statement (.ldDTVx x) := by
  simp only [Statement, Instr.row, OpcodeRow.holds, encode, encodeXKK_mask_low]
  decide

theorem ldSTVx (x : Nibble) : Statement (.ldSTVx x) := by
  simp only [Statement, Instr.row, OpcodeRow.holds, encode, encodeXKK_mask_low]
  decide

theorem addI (x : Nibble) : Statement (.addI x) := by
  simp only [Statement, Instr.row, OpcodeRow.holds, encode, encodeXKK_mask_low]
  decide

theorem ldF (x : Nibble) : Statement (.ldF x) := by
  simp only [Statement, Instr.row, OpcodeRow.holds, encode, encodeXKK_mask_low]
  decide

theorem ldB (x : Nibble) : Statement (.ldB x) := by
  simp only [Statement, Instr.row, OpcodeRow.holds, encode, encodeXKK_mask_low]
  decide

theorem storeRegs (x : Nibble) : Statement (.storeRegs x) := by
  simp only [Statement, Instr.row, OpcodeRow.holds, encode, encodeXKK_mask_low]
  decide

theorem loadRegs (x : Nibble) : Statement (.loadRegs x) := by
  simp only [Statement, Instr.row, OpcodeRow.holds, encode, encodeXKK_mask_low]
  decide

end EncodingMatchesRow

end Sys2Proof.Laws
end

