-- ==== Sys2Proof/Laws/WellFormed.lean ====
section
/-! SUPPORT. The operand types carry R60's ranges. -/

namespace Sys2Proof.Laws

theorem nibble_le (x : Nibble) : x.toNat ≤ 0xF :=
  Nat.le_of_lt_succ x.isLt

theorem byte_le (b : Byte) : b.toNat ≤ 0xFF :=
  Nat.le_of_lt_succ b.isLt

theorem addr12_le (nnn : Addr12) : nnn.toNat ≤ 0xFFF :=
  Nat.le_of_lt_succ nnn.isLt

/-- Every term of `Instr` has its operands in range. -/
@[simp] theorem instr_wf (i : Instr) : i.wf = true := by
  cases i <;> simp only [Instr.wf, nibble_le, byte_le, addr12_le, decide_true, Bool.and_true]

end Sys2Proof.Laws
end

