-- ==== Sys2Proof/Tests/Slice0.lean ====
section
/-! SUPPORT. The model's own tests: expected values from spec/95_test_vectors.md (the vector's id is in the
name or the comment) or by hand from a rule; and, for each statement with hypotheses, a state and operands
that meet them. -/

namespace Sys2Proof.Tests

open Sys2Proof Sys2Proof.Machine

/-! ### Helpers -/

/-- The reset state with these registers. -/
def withRegs (rs : List (Nibble × Byte)) : State :=
  rs.foldl (fun s p => s.setV p.1 p.2) State.reset

/-- One step of the state with the word placed at pc, and what is read of the next state. -/
def after {α : Type} (s : State) (w : Nat) (f : State → α) : Option α :=
  match step (s.withFetchWord 16 w) with
  | .next t => some (f t)
  | _ => none

/-- What is read of the state that an outcome answers. -/
def ofNext {α β φ ρ : Type} (o : Host.Outcome β φ ρ) (f : β → α) : Option α :=
  match o with
  | .next t => some (f t)
  | _ => none

/-- Does the outcome answer a refusal? -/
def isRefused {β φ ρ : Type} (o : Host.Outcome β φ ρ) : Bool :=
  match o with
  | .refused _ => true
  | _ => false

/-! ### Well-formedness: each check refuses an ill-formed term -/

theorem test_params_zero_depth_refused : Params.wf ⟨some 0, true⟩ = false := by decide

theorem test_params_unbounded_accepted : Params.wf ⟨none, false⟩ = true := by decide

theorem test_font_of_79_bytes_refused : fontWf (List.replicate 79 0) = false := by decide

theorem test_rom_of_3585_bytes_refused : romWf (List.replicate 3585 0) = false := by
  rw [romWf, List.length_replicate]
  decide

theorem test_rom_of_3584_bytes_accepted : romWf (List.replicate 3584 0) = true := by
  rw [romWf, List.length_replicate]
  decide

theorem test_key_0x10_refused : keyWf 0x10 = false := by decide

theorem test_instr_wf_at_the_largest_operands : (Instr.drw 0xF 0xF 0xF).wf = true := by decide

theorem test_memory_repeated_address_refused :
    Memory.wf [(0x300, 1), (0x300, 2)] = false := by decide

theorem test_memory_falling_address_refused : Memory.wf [(0x301, 1), (0x300, 2)] = false := by decide

theorem test_memory_default_byte_refused : Memory.wf [(0x000, 0xF0)] = false := by decide

theorem test_memory_address_0x1000_refused : Memory.wf [(0x1000, 1)] = false := by decide

theorem test_reset_refuses_badly_formed_arguments :
    isRefused (State.reset.resetWith ⟨some 0, true⟩ defaultFont []) = true ∧
      isRefused (State.reset.resetWith defaultParams [] []) = true := by decide

/-! ### Decoding: every constructor, from a word written out bit by bit (30 R59, R62) -/

theorem test_decode_cls : decode 0b0000000011100000#16 = some .cls := by decide

theorem test_decode_ret : decode 0b0000000011101110#16 = some .ret := by decide

theorem test_decode_jp : decode 0b0001101010111100#16 = some (.jp 0xABC) := by decide

theorem test_decode_call : decode 0b0010010000000001#16 = some (.call 0x401) := by decide

theorem test_decode_se_imm : decode 0b0011101000101011#16 = some (.seImm 0xA 0x2B) := by decide

theorem test_decode_sne_imm : decode 0b0100101000101011#16 = some (.sneImm 0xA 0x2B) := by decide

theorem test_decode_se_reg : decode 0b0101000100100000#16 = some (.seReg 0x1 0x2) := by decide

theorem test_decode_ld_imm : decode 0b0110101000101010#16 = some (.ldImm 0xA 0x2A) := by decide

theorem test_decode_add_imm : decode 0b0111101011111110#16 = some (.addImm 0xA 0xFE) := by decide

theorem test_decode_ld_reg : decode 0b1000000100100000#16 = some (.ldReg 0x1 0x2) := by decide

theorem test_decode_or : decode 0b1000000100100001#16 = some (.orReg 0x1 0x2) := by decide

theorem test_decode_and : decode 0b1000000100100010#16 = some (.andReg 0x1 0x2) := by decide

theorem test_decode_xor : decode 0b1000000100100011#16 = some (.xorReg 0x1 0x2) := by decide

theorem test_decode_add_reg : decode 0b1000000100100100#16 = some (.addReg 0x1 0x2) := by decide

theorem test_decode_sub : decode 0b1000000100100101#16 = some (.sub 0x1 0x2) := by decide

theorem test_decode_shr : decode 0b1000000100100110#16 = some (.shr 0x1 0x2) := by decide

theorem test_decode_subn : decode 0b1000000100100111#16 = some (.subn 0x1 0x2) := by decide

theorem test_decode_shl : decode 0b1000000100101110#16 = some (.shl 0x1 0x2) := by decide

theorem test_decode_sne_reg : decode 0b1001000100100000#16 = some (.sneReg 0x1 0x2) := by decide

theorem test_decode_ld_i : decode 0b1010001011110001#16 = some (.ldI 0x2F1) := by decide

theorem test_decode_jp_v0 : decode 0b1011001100000100#16 = some (.jpV0 0x304) := by decide

theorem test_decode_rnd : decode 0b1100010100001110#16 = some (.rnd 0x5 0x0E) := by decide

theorem test_decode_drw : decode 0b1101000100100101#16 = some (.drw 0x1 0x2 0x5) := by decide

theorem test_decode_skp : decode 0b1110000110011110#16 = some (.skp 0x1) := by decide

theorem test_decode_sknp : decode 0b1110000110100001#16 = some (.sknp 0x1) := by decide

theorem test_decode_ld_vx_dt : decode 0b1111001100000111#16 = some (.ldVxDT 0x3) := by decide

theorem test_decode_ld_vx_k : decode 0b1111001100001010#16 = some (.ldVxK 0x3) := by decide

theorem test_decode_ld_dt_vx : decode 0b1111001100010101#16 = some (.ldDTVx 0x3) := by decide

theorem test_decode_ld_st_vx : decode 0b1111001100011000#16 = some (.ldSTVx 0x3) := by decide

theorem test_decode_add_i : decode 0b1111010000011110#16 = some (.addI 0x4) := by decide

theorem test_decode_ld_f : decode 0b1111101000101001#16 = some (.ldF 0xA) := by decide

theorem test_decode_ld_b : decode 0b1111010100110011#16 = some (.ldB 0x5) := by decide

theorem test_decode_store_regs : decode 0b1111001101010101#16 = some (.storeRegs 0x3) := by decide

theorem test_decode_load_regs : decode 0b1111001001100101#16 = some (.loadRegs 0x2) := by decide

/-- Vectors X2-X9: words that match no row. -/
theorem test_decode_unknown_words :
    [0x0000#16, 0x0123#16, 0x01E0#16, 0x00E1#16, 0x5121#16, 0x9001#16, 0x8008#16, 0x800F#16, 0xE09F#16,
      0xF000#16, 0xF0FF#16, 0xFFFF#16].all (fun w => (decode w).isNone) = true := by decide

theorem test_table_word_has_its_bits_in_place :
    decodeTableWord 16 0xD125 = some (.drw 0x1 0x2 0x5) ∧ decodeTableWord 16 0x8008 = none := by decide

theorem test_decode_bytes_is_big_endian :
    decodeBytes [0x61, 0x05, 0x80] = .insn (.ldImm 0x1 0x05) [0x80] ∧
      decodeBytes [0x60] = .truncated := by decide

/-! ### Reset and the step -/

theorem test_reset_fetches_at_0x200 : State.reset.pc = 0x200 ∧ State.reset.mem = [] := by decide

/-- X1: the first word after a reset with no ROM is 0000. -/
theorem test_step_of_reset_is_unknown_opcode :
    ofNext (step State.reset) (fun t => (t.pc, t.run, t.fault)) =
      some (0x202, .halted, some ⟨.unknownOpcode, 0x200, some 0x0000, none⟩) := by decide

/-- X10: the last word of memory executes. -/
theorem test_step_at_0xFFE_executes :
    after { State.reset with pc := 0xFFE } 0x6001 (fun t => (t.getV 0, t.pc)) =
      some (0x01, 0x1000) := by decide

/-- X11, X12. -/
theorem test_fetch_above_memory_faults :
    ofNext (step { State.reset with pc := 0x1000 }) (fun t => (t.pc, t.fault)) =
        some (0x1000, some ⟨.fetchOutOfRange, 0x1000, none, some 0x1000⟩) ∧
      ofNext (step { State.reset with pc := 0xFFF }) (fun t => (t.pc, t.fault)) =
        some (0xFFF, some ⟨.fetchOutOfRange, 0xFFF, none, some 0x1000⟩) := by decide

/-- X13: an odd pc is legal. -/
theorem test_step_at_an_odd_pc :
    after { State.reset with pc := 0x201 } 0x6055 (fun t => (t.getV 0, t.pc)) =
      some (0x55, 0x203) := by decide

/-- R143's second glyph: its rows at 5, ..., 9. -/
theorem test_font_glyph_one : Memory.readBlock [] 5 5 = [0x20, 0x60, 0x20, 0x20, 0x70] := by decide

/-! ### Control flow -/

/-- F1. -/
theorem test_ret_pops_the_top :
    after { State.reset with stack := [0x300, 0x456] } 0x00EE (fun t => (t.pc, t.stack)) =
      some (0x456, [0x300]) := by decide

/-- F2. -/
theorem test_ret_on_an_empty_stack_faults :
    after State.reset 0x00EE (fun t => (t.pc, t.run, t.fault)) =
      some (0x202, .halted, some ⟨.stackUnderflow, 0x200, some 0x00EE, none⟩) := by decide

/-- F3. -/
theorem test_jp :
    after State.reset 0x1ABC (fun t => t.pc) = some 0xABC := by decide

/-- F5. -/
theorem test_call :
    after State.reset 0x2400 (fun t => (t.pc, t.stack)) = some (0x400, [0x202]) := by decide

/-- F6. -/
theorem test_call_on_a_full_stack_faults :
    after { State.reset with stack := List.replicate 16 0x300 } 0x2400
        (fun t => (t.pc, t.stack.length, t.fault)) =
      some (0x202, 16, some ⟨.stackOverflow, 0x200, some 0x2400, none⟩) := by decide

/-- F7, F8. -/
theorem test_se_imm :
    after (withRegs [(0xA, 0x2A)]) 0x3A2A (fun t => t.pc) = some 0x204 ∧
      after (withRegs [(0xA, 0x2A)]) 0x3A2B (fun t => t.pc) = some 0x202 := by decide

/-- F9, F10. -/
theorem test_sne_imm :
    after (withRegs [(0xA, 0x2A)]) 0x4A2A (fun t => t.pc) = some 0x202 ∧
      after (withRegs [(0xA, 0x2A)]) 0x4A2B (fun t => t.pc) = some 0x204 := by decide

/-- F11, F12. -/
theorem test_se_reg :
    after (withRegs [(1, 3), (2, 3)]) 0x5120 (fun t => t.pc) = some 0x204 ∧
      after (withRegs [(1, 3), (2, 4)]) 0x5120 (fun t => t.pc) = some 0x202 := by decide

/-- F13, F14. -/
theorem test_sne_reg :
    after (withRegs [(1, 3), (2, 4)]) 0x9120 (fun t => t.pc) = some 0x204 ∧
      after (withRegs [(1, 3), (2, 3)]) 0x9120 (fun t => t.pc) = some 0x202 := by decide

/-- F16, F17: not reduced modulo 4096. -/
theorem test_jp_v0 :
    after (withRegs [(0, 0xFF)]) 0xBFFF (fun t => t.pc) = some 0x10FE ∧
      after (withRegs [(0, 0x20)]) 0xBFF0 (fun t => t.pc) = some 0x1010 := by decide

/-! ### Register and ALU -/

/-- A1. -/
theorem test_ld_reg :
    after (withRegs [(0, 0x03), (1, 0x09), (vf, 0x77)]) 0x8010 (fun t => (t.getV 0, t.getV vf)) =
        some (0x09, 0x77) := by decide

/-- A2. -/
theorem test_or :
    after (withRegs [(0, 0xF0), (1, 0x0F), (vf, 0x77)]) 0x8011 (fun t => (t.getV 0, t.getV vf)) =
        some (0xFF, 0x77) := by decide

/-- A3. -/
theorem test_and :
    after (withRegs [(0, 0xF0), (1, 0x3C), (vf, 0x77)]) 0x8012 (fun t => (t.getV 0, t.getV vf)) =
        some (0x30, 0x77) := by decide

/-- A4. -/
theorem test_xor :
    after (withRegs [(0, 0xFF), (1, 0x0F), (vf, 0x77)]) 0x8013 (fun t => (t.getV 0, t.getV vf)) =
        some (0xF0, 0x77) := by decide

/-- A10, A13. -/
theorem test_add_reg :
    after (withRegs [(0, 0xFF), (1, 0x01), (vf, 0x77)]) 0x8014 (fun t => (t.getV 0, t.getV vf)) =
        some (0x00, 0x01) ∧
      after (withRegs [(0, 0x7F), (1, 0x80), (vf, 0x77)]) 0x8014 (fun t => (t.getV 0, t.getV vf)) =
        some (0xFF, 0x00) := by decide

/-- A15, A16 (equal operands give VF = 0). -/
theorem test_sub :
    after (withRegs [(0, 0x0A), (1, 0x03), (vf, 0x77)]) 0x8015 (fun t => (t.getV 0, t.getV vf)) =
        some (0x07, 0x01) ∧
      after (withRegs [(0, 0x05), (1, 0x05), (vf, 0x77)]) 0x8015 (fun t => (t.getV 0, t.getV vf)) =
        some (0x00, 0x00) := by decide

/-- A21, A22. -/
theorem test_shr :
    after (withRegs [(0, 0xFF), (1, 0x00), (vf, 0x77)]) 0x8016 (fun t => (t.getV 0, t.getV vf)) =
        some (0x7F, 0x01) ∧
      after (withRegs [(0, 0x80), (1, 0x00), (vf, 0x77)]) 0x8016 (fun t => (t.getV 0, t.getV vf)) =
        some (0x40, 0x00) := by decide

/-- A24, A26. -/
theorem test_subn :
    after (withRegs [(0, 0x03), (1, 0x0A), (vf, 0x77)]) 0x8017 (fun t => (t.getV 0, t.getV vf)) =
        some (0x07, 0x01) ∧
      after (withRegs [(0, 0x01), (1, 0x00), (vf, 0x77)]) 0x8017 (fun t => (t.getV 0, t.getV vf)) =
        some (0xFF, 0x00) := by decide

/-- A29, A31. -/
theorem test_shl :
    after (withRegs [(0, 0x7F), (1, 0x00), (vf, 0x77)]) 0x801E (fun t => (t.getV 0, t.getV vf)) =
        some (0xFE, 0x00) ∧
      after (withRegs [(0, 0xC1), (1, 0x00), (vf, 0x77)]) 0x801E (fun t => (t.getV 0, t.getV vf)) =
        some (0x82, 0x01) := by decide

/-- A42, A44, A46, A50: VF as the destination. A61, A62, A64: VF as the source, read anew in 8xy5 and 8xy7. -/
theorem test_vf_as_an_operand :
    after (withRegs [(1, 0x01), (vf, 0xFF)]) 0x8F14 (fun t => t.getV vf) = some 0x00 ∧
      after (withRegs [(1, 0x03), (vf, 0x0A)]) 0x8F15 (fun t => t.getV vf) = some 0xFE ∧
      after (withRegs [(vf, 0x03)]) 0x8F16 (fun t => t.getV vf) = some 0x00 ∧
      after (withRegs [(vf, 0x81)]) 0x8F1E (fun t => t.getV vf) = some 0x02 ∧
      after (withRegs [(0, 0x01), (vf, 0xFF)]) 0x80F4 (fun t => (t.getV 0, t.getV vf)) = some (0x00, 0x01) ∧
      after (withRegs [(0, 0x0A), (vf, 0x03)]) 0x80F5 (fun t => (t.getV 0, t.getV vf)) = some (0x09, 0x01) ∧
      after (withRegs [(0, 0x03), (vf, 0x0A)]) 0x80F7 (fun t => (t.getV 0, t.getV vf)) = some (0xFE, 0x01) := by decide

/-- A70. -/
theorem test_ld_imm :
    after State.reset 0x6A2A (fun t => (t.getV 0xA, t.pc)) = some (0x2A, 0x202) := by decide

/-- A71: no carry flag. -/
theorem test_add_imm :
    after (withRegs [(0xA, 0x02), (vf, 0x02)]) 0x7AFF (fun t => (t.getV 0xA, t.getV vf)) =
      some (0x01, 0x02) := by decide

/-- A74. -/
theorem test_rnd :
    after { State.reset with inputs := ⟨[], [0xAB, 0xCD], 0⟩ } 0xC30F
        (fun t => (t.getV 3, t.inputs)) =
      some (0x0B, ⟨[], [0xCD], 1⟩) := by decide

/-! ### Index and memory -/

/-- M1. -/
theorem test_ld_i :
    after State.reset 0xA123 (fun t => t.i) = some 0x123 := by decide

/-- M2, M3. -/
theorem test_add_i :
    after { withRegs [(4, 1)] with i := 0xFFFF } 0xF41E (fun t => t.i) = some 0x0000 ∧
      after { withRegs [(4, 1)] with i := 0x0FFF } 0xF41E (fun t => t.i) = some 0x1000 := by decide

/-- M5, M7. -/
theorem test_ld_f :
    after (withRegs [(0xA, 0x0A)]) 0xFA29 (fun t => t.i) = some 0x032 ∧
      after (withRegs [(0xA, 0xFF)]) 0xFA29 (fun t => t.i) = some 0x4FB := by decide

/-- M8. -/
theorem test_ld_b :
    after { withRegs [(5, 0x9C)] with i := 0x300 } 0xF533 (fun t => (t.mem.readBlock 0x300 3, t.i)) =
      some ([0x01, 0x05, 0x06], 0x300) := by decide

/-- M9, M10. -/
theorem test_ld_b_faults :
    after { withRegs [(5, 0x9C)] with i := 0xFFE } 0xF533 (fun t => (t.mem.readBlock 0xFFE 2, t.fault)) =
        some ([0, 0], some ⟨.writeOutOfRange, 0x200, some 0xF533, some 0x1000⟩) ∧
      after { withRegs [(5, 0x9C)] with i := 0x1FF } 0xF533 (fun t => (t.mem.get 0x1FF, t.fault)) =
        some (0, some ⟨.writeProtected, 0x200, some 0xF533, some 0x1FF⟩) := by decide

/-- M12. -/
theorem test_store_regs :
    after { withRegs [(0, 1), (1, 2), (2, 3), (3, 4), (4, 5)] with i := 0x300 } 0xF355
        (fun t => (t.mem.readBlock 0x300 5, t.i)) =
      some ([1, 2, 3, 4, 0], 0x300) := by decide

/-- M13. -/
theorem test_store_regs_faults :
    after { withRegs [(0, 1), (0xF, 0x10)] with i := 0xFF5 } 0xFF55
        (fun t => (t.mem.readBlock 0xFF5 11, t.fault)) =
      some (List.replicate 11 0, some ⟨.writeOutOfRange, 0x200, some 0xFF55, some 0x1000⟩) := by decide

/-- M14. -/
theorem test_load_regs :
    after { withRegs [(3, 0x33)] with i := 0x300, mem := [(0x300, 9), (0x301, 8), (0x302, 7), (0x303, 6)] }
        0xF265 (fun t => (t.getV 0, t.getV 1, t.getV 2, t.getV 3)) =
      some (9, 8, 7, 0x33) := by decide

/-- M15. -/
theorem test_load_regs_faults :
    after { withRegs [(0, 0x11), (1, 0x22)] with i := 0xFFF, mem := [(0xFFF, 0x99)] } 0xF165
        (fun t => (t.getV 0, t.getV 1, t.fault)) =
      some (0x11, 0x22, some ⟨.readOutOfRange, 0x200, some 0xF165, some 0x1000⟩) := by decide

/-! ### Display -/

/-- The lit cells of the first two and the last row, by their column numbers. -/
def rowsLit (t : State) : List (BitVec 64) :=
  [t.fb[0], t.fb[1], t.fb[31]]

/-- D9. -/
theorem test_cls :
    after { State.reset with fb := Vector.replicate 32 5 } 0x00E0 rowsLit = some [0, 0, 0] := by decide

/-- E8 / D1: 0xF0 at (0,0) lights columns 0-3 of row 0. E5: both axes wrap. D7: a collision. -/
theorem test_drw :
    after { State.reset with i := 0x300, mem := [(0x300, 0xF0)] } 0xD011
        (fun t => (rowsLit t, t.getV vf)) =
        some ([0b1111, 0, 0], 0) ∧
      after { withRegs [(0, 0x3F), (1, 0x1F)] with i := 0x300, mem := [(0x300, 0xC0), (0x301, 0xC0)] } 0xD012
        (fun t => (rowsLit t, t.getV vf)) =
        some ([0x8000000000000001, 0, 0x8000000000000001], 0) ∧
      after { State.reset with i := 0x300, mem := [(0x300, 0x80)], fb := State.reset.fb.set 0 0b11 } 0xD011
        (fun t => (rowsLit t, t.getV vf)) =
        some ([0b10, 0, 0], 1) := by decide

/-- D6: a clear bit over a lit cell is no collision. D3, D2. -/
theorem test_drw_without_collision_and_with_fault :
    after { State.reset with i := 0x300, mem := [(0x300, 0x80)], fb := State.reset.fb.set 0 0b10 } 0xD011
        (fun t => (rowsLit t, t.getV vf)) =
        some ([0b11, 0, 0], 0) ∧
      after { withRegs [(vf, 1)] with i := 0xFFE } 0xD013 (fun t => (t.getV vf, t.fault)) =
        some (1, some ⟨.readOutOfRange, 0x200, some 0xD013, some 0x1000⟩) ∧
      after { withRegs [(vf, 1)] with i := 0xFFFF } 0xD010 (fun t => (t.getV vf, t.fault)) =
        some (0, none) := by decide

/-! ### Key and timer -/

/-- K1, K2. -/
theorem test_skp :
    after { withRegs [(1, 7)] with inputs := ⟨[true], [], 0⟩ } 0xE19E (fun t => (t.pc, t.inputs)) =
        some (0x204, ⟨[], [], 1⟩) ∧
      after { withRegs [(1, 7)] with inputs := ⟨[false], [], 0⟩ } 0xE19E (fun t => t.pc) = some 0x202 := by decide

/-- K3, K4. -/
theorem test_sknp :
    after { withRegs [(1, 7)] with inputs := ⟨[false], [], 0⟩ } 0xE1A1 (fun t => t.pc) = some 0x204 ∧
      after { withRegs [(1, 7)] with inputs := ⟨[true], [], 0⟩ } 0xE1A1 (fun t => t.pc) = some 0x202 := by decide

/-- K5, and its like for ExA1. -/
theorem test_invalid_key :
    after (withRegs [(1, 0x10)]) 0xE19E (fun t => (t.pc, t.fault)) =
        some (0x202, some ⟨.invalidKey, 0x200, some 0xE19E, none⟩) ∧
      after (withRegs [(1, 0x10)]) 0xE1A1 (fun t => (t.pc, t.fault)) =
        some (0x202, some ⟨.invalidKey, 0x200, some 0xE1A1, none⟩) := by decide

/-- K6. -/
theorem test_ld_vx_dt :
    after { State.reset with dt := 0x3C } 0xF307 (fun t => t.getV 3) = some 0x3C := by decide

/-- E9. -/
theorem test_ld_vx_k :
    after State.reset 0xF30A (fun t => (t.run, t.waitX, t.pc, t.getV 3)) =
      some (.waitingForKey, 3, 0x202, 0) := by decide

/-- R113's example. -/
theorem test_ld_dt_vx :
    after (withRegs [(0, 0x05)]) 0xF015 (fun t => t.dt) = some 0x05 := by decide

/-- R114's example. -/
theorem test_ld_st_vx :
    after (withRegs [(0, 0x02)]) 0xF018 (fun t => t.st) = some 0x02 := by decide

/-! ### The host's operations -/

/-- K7. -/
theorem test_resume_writes_the_key :
    ofNext (State.resume 0xC { State.reset with run := .waitingForKey, waitX := 0xF, pc := 0x202 })
        (fun t => (t.getV vf, t.run, t.pc)) =
      some (0x0C, .running, 0x202) := by decide

/-- K8, and R127's refusal of a key above 0xF. -/
theorem test_resume_while_running_does_nothing :
    ofNext (State.resume 5 State.reset) (fun t => decide (t = State.reset)) = some true ∧
      isRefused (State.resume 0x10 State.reset) = true := by decide

/-- K11: a cycle of no instructions still ticks. -/
theorem test_cycle_of_zero_ticks :
    ofNext (State.cycle 0 { State.reset with dt := 5 }) (fun q => (q.1.dt, q.1.pc, q.2)) =
      some (4, 0x200, .cycleDone false) := by decide

/-- K12's end: a fault gives the record, no tick and no sound signal. -/
theorem test_cycle_ended_by_a_fault :
    ofNext (State.cycle defaultBatchSize { State.reset with st := 2 }) (fun q => (q.1.st, q.2)) =
      some (2, .faulted ⟨.unknownOpcode, 0x200, some 0x0000, none⟩) := by decide

/-- C7: while waiting, no tick, but the sound signal. -/
theorem test_cycle_while_waiting :
    ofNext (State.cycle defaultBatchSize { State.reset with run := .waitingForKey, st := 2 }) (fun q => (q.1.st, q.2)) =
      some (2, .cycleDone true) := by decide

/-- R142: a ROM byte at 0x200, the font at 0, protection off for the load. -/
theorem test_reset_loads_the_rom :
    ofNext (State.reset.resetWith ⟨none, false⟩ defaultFont [0x60, 0x0A])
        (fun t => (t.mem, t.pc, t.params)) =
      some ([(0x200, 0x60), (0x201, 0x0A)], 0x200, ⟨none, false⟩) := by decide

/-- R142 with another font: its bytes are listed cells. -/
theorem test_reset_loads_another_font :
    ofNext (State.reset.resetWith defaultParams (0x11 :: defaultFont.tail) []) (fun t => t.mem) =
      some [(0x000, 0x11)] := by decide

/-- R75: cell number y * 64 + x. -/
theorem test_render_is_row_major :
    (State.fb { State.reset with fb := State.reset.fb.set 1 0b100 }).cells[66]? = some true := by
  decide +kernel

/-! ### Witnesses: for each statement with hypotheses, a state and operands that meet them -/

theorem witness_EncodeThenDecodeGivesInstruction : (Instr.call 0xFFF).wf = true := by decide

theorem witness_DecodeThenEncodeGivesWord : decode 0xFFFF = none ∧ decode 0x8FFE = some (.shl 0xF 0xF) := by
  decide

/-- A word of a row, and a Running core that fetches a word of none. -/
theorem witness_DecodeIsExactlyTheOpcodeTable :
    (∃ w i r, decode w = some i ∧ r ∈ opcodeRows ∧ OpcodeRow.holds r w = true) ∧
      ∃ s : State, s.run = .running ∧ s.fault = none ∧ s.fetch = .word 0x0000 ∧ decode 0x0000 = none :=
  ⟨⟨0xF165, .loadRegs 1, ⟨0xF065, 0xF0FF⟩, by decide⟩, State.reset, by decide⟩

theorem witness_SubOpcodesSelectTheOperation :
    0xF#4 ∈ [0x8#4, 0x9#4, 0xA#4, 0xB#4, 0xC#4, 0xD#4, 0xF#4] ∧ (0xA0#8 ∉ [0x9E#8, 0xA1#8]) ∧
      0x64#8 ∉ [0x07#8, 0x0A#8, 0x15#8, 0x18#8, 0x1E#8, 0x29#8, 0x33#8, 0x55#8, 0x65#8] := by decide

theorem witness_FixedDigitsOfFamilies059AreChecked :
    fieldOp 0x00EF = 0x0 ∧ 0x00EF#16 ≠ 0x00E0 ∧ 0x00EF#16 ≠ 0x00EE ∧ 0xF#4 ≠ 0 := by decide

/-- The last address that a fetch can start at. -/
theorem witness_StepRunsTheDecodedInstruction :
    ∃ (s : State) (i : Instr), s.run = .running ∧ s.fault = none ∧ s.pc.toNat = 0xFFE ∧
      decode (wordOfBytes (s.mem.get s.pc.toNat) (s.mem.get (s.pc.toNat + 1))) = some i :=
  ⟨{ State.reset with pc := 0xFFE, mem := [(0xFFE, 0x60), (0xFFF, 0x01)] }, .ldImm 0 1, by decide⟩

theorem witness_FetchAboveMemoryHalts :
    ∃ s t : State, s.run = .running ∧ s.fault = none ∧ s.pc.toNat = 0xFFF ∧
      t.run = .running ∧ t.fault = none ∧ t.pc.toNat = 0x1000 :=
  ⟨{ State.reset with pc := 0xFFF }, { State.reset with pc := 0x1000 }, by decide⟩

theorem witness_NoInstructionOutsideRunning :
    (∃ s : State, s.fault = none ∧ s.run = .waitingForKey) ∧ (∃ s : State, s.fault = none ∧ s.run = .halted) ∧
      ∃ (s : State) (r : FaultRecord), s.fault = some r :=
  ⟨⟨{ State.reset with run := .waitingForKey }, by decide⟩, ⟨{ State.reset with run := .halted }, by decide⟩,
    { State.reset with fault := some ⟨.invalidKey, 0x200, none, none⟩ }, _, rfl⟩

/-- Both kinds of record: a fetch out of range, and an unknown opcode. -/
theorem witness_FaultsArePrecise :
    (∃ (s t : State) (r : FaultRecord), s.fault = none ∧ step s = .next t ∧ t.fault = some r ∧
        r.kind = .fetchOutOfRange) ∧
      ∃ (s t : State) (r : FaultRecord), s.fault = none ∧ step s = .next t ∧ t.fault = some r ∧
        r.kind ≠ .fetchOutOfRange :=
  ⟨⟨{ State.reset with pc := 0xFFF }, _, _, rfl, rfl, rfl, by decide⟩,
    ⟨State.reset, _, _, rfl, rfl, rfl, by decide⟩⟩

theorem witness_FaultsAreRaisedAsTheTableSays :
    ∃ (s t : State) (r : FaultRecord), s.fault = none ∧ step s = .next t ∧ t.fault = some r ∧
      r.kind = .unknownOpcode :=
  ⟨State.reset, _, _, rfl, rfl, rfl, by decide⟩

/-- The largest ROM, and the smallest STACK_DEPTH, start a session. -/
theorem witness_ResetLoadsFontAndRom :
    (List.replicate 3584 (0xFF : Byte)).length ≤ 3584 ∧ defaultFont.length = 80 ∧
      (⟨some 1, true⟩ : Params).stackDepth ≠ some 0 ∧
      ∃ t, State.reset.resetWith ⟨some 1, true⟩ defaultFont [] = .next t := by
  refine ⟨by rw [List.length_replicate], by decide, by decide, ?_⟩
  exact ⟨_, resetWith_next (by decide) (by decide) (by decide)⟩

theorem witness_ResetVectorIs0x200 :
    ∃ t, State.reset.resetWith defaultParams defaultFont [0x12, 0x00] = .next t := by
  exact ⟨_, resetWith_next (by decide) (by decide) (by decide)⟩

/-- Destinations and sources that are VF and that are not. -/
theorem witness_register_hypotheses : (0xE : Nibble) ≠ vf ∧ (0xF : Nibble) = vf := by decide

theorem witness_RandomByteIsMasked :
    ∃ (s : State) (r : Byte) (rest : List Byte), s.inputs.randomBytes = r :: rest :=
  ⟨{ State.reset with inputs := ⟨[], [0xAB], 0⟩ }, 0xAB, [], rfl⟩

theorem witness_ReturnPopsTheStack :
    (∃ (s : State) (rest : List Word) (w : Word), s.stack = rest ++ [w]) ∧ State.reset.stack = [] :=
  ⟨⟨{ State.reset with stack := [0x202] }, [], 0x202, rfl⟩, rfl⟩

/-- One entry below the depth, at the depth, and with no depth at all. -/
theorem witness_CallPushesTheReturnAddress :
    ∃ s t u : State, s.params.stackDepth ≠ some s.stack.length ∧ s.stack.length = 15 ∧
      t.params.stackDepth = some t.stack.length ∧ u.params.stackDepth = none :=
  ⟨{ State.reset with stack := List.replicate 15 0x202 },
    { State.reset with stack := List.replicate 16 0x202 },
    { State.reset with params := ⟨none, true⟩ }, by decide⟩

theorem witness_ReturnUndoesCall :
    ∃ (s t u : State), exec (.call 0x300) s = .next t ∧ s.fault = none ∧ t.fault = none ∧ u.stack = t.stack :=
  ⟨State.reset, (State.reset.push 0x200).setPc 0x300, (State.reset.push 0x200).setPc 0x300,
    rfl, rfl, rfl, rfl⟩

/-- The highest block that may be written, the lowest, and the two failing clauses at their edges. -/
theorem witness_BcdStore :
    ∃ s t u w : State,
      (s.mem.wf = true ∧ s.i.toNat = 0xFFD ∧ ∀ k, k < 3 → s.mayWrite (s.i.toNat + k)) ∧
      (t.mem.wf = true ∧ t.i.toNat = 0x200 ∧ ∀ k, k < 3 → t.mayWrite (t.i.toNat + k)) ∧
      (u.mem.wf = true ∧ ¬ u.mayWrite (u.i.toNat + 2) ∧ ∀ j, j < 2 → u.mayWrite (u.i.toNat + j)) ∧
      (w.mem.wf = true ∧ w.i.toNat = 0x1FF ∧ ¬ w.mayWrite (w.i.toNat + 0) ∧
        ∀ j, j < 0 → w.mayWrite (w.i.toNat + j)) := by
  refine ⟨{ State.reset with i := 0xFFD }, { State.reset with i := 0x200 },
    { State.reset with i := 0xFFE }, { State.reset with i := 0x1FF }, ?_⟩
  simp only [State.mayWrite]
  decide

/-- All sixteen registers in the highest block, and one byte higher. -/
theorem witness_RegisterBlockStore :
    ∃ s t : State,
      (s.mem.wf = true ∧ ∀ k, k ≤ (0xF : Nibble).toNat → s.mayWrite (s.i.toNat + k)) ∧
      (t.mem.wf = true ∧ ¬ t.mayWrite (t.i.toNat + 15) ∧ ∀ j, j < 15 → t.mayWrite (t.i.toNat + j)) := by
  refine ⟨{ State.reset with i := 0xFF0 }, { State.reset with i := 0xFF1 }, ?_⟩
  simp only [State.mayWrite]
  constructor
  · refine ⟨by decide, fun k hk => ?_⟩
    have h : k ≤ 15 := hk
    constructor
    · show 0xFF0 + k ≤ 0xFFF
      omega
    · intro _
      show 0x1FF < 0xFF0 + k
      omega
  · refine ⟨by decide, by decide, fun j hj => ⟨?_, fun _ => ?_⟩⟩
    · show 0xFF1 + j ≤ 0xFFF
      omega
    · show 0x1FF < 0xFF1 + j
      omega

theorem witness_RegisterBlockLoad :
    ∃ s t : State, s.i.toNat + (0xF : Nibble).toNat = 0xFFF ∧ t.i.toNat + (0xF : Nibble).toNat = 0x1000 :=
  ⟨{ State.reset with i := 0xFF0 }, { State.reset with i := 0xFF1 }, by decide⟩

/-- A fetch that meets the last stored byte alone, and one inside the block of Fx33. -/
theorem witness_StoredBytesAreFetched :
    (∃ (s t u : State), s.mem.wf = true ∧ s.fault = none ∧ exec (.storeRegs 1) s = .next t ∧
        t.fault = none ∧ u.mem = t.mem ∧ u.pc.toNat = 0xFFE ∧ s.i.toNat + 1 = 0xFFE) ∧
      ∃ (s t u : State), s.mem.wf = true ∧ s.fault = none ∧ exec (.ldB 0) s = .next t ∧
        t.fault = none ∧ u.mem = t.mem ∧ u.pc.toNat = s.i.toNat + 1 ∧ u.pc.toNat ≤ 0xFFE :=
  ⟨⟨{ withRegs [(0, 0x12), (1, 0x34)] with i := 0xFFD }, _,
      { State.reset with mem := [(0xFFD, 0x12), (0xFFE, 0x34)], pc := 0xFFE },
      by decide, rfl, rfl, rfl, by decide, by decide, by decide⟩,
    ⟨{ withRegs [(0, 156)] with i := 0x300 }, _,
      { State.reset with mem := [(0x300, 1), (0x301, 5), (0x302, 6)], pc := 0x301 },
      by decide, rfl, rfl, rfl, by decide, by decide, by decide⟩⟩

/-- Two writes at the two ends of memory, one of them the byte that an unlisted address reads as. -/
theorem witness_MemoryIsItsBytes :
    ∃ (m : Memory) (a b : Nat), m.wf = true ∧ a < 4096 ∧ b < 4096 ∧ a ≠ b ∧
      (m.set a 0x00).set b 0xFF = [(0xFFF, 0xFF)] :=
  ⟨[(0x200, 1)], 0x200, 0xFFF, by decide⟩

/-- Fifteen rows that end at 0xFFF, and one byte higher. -/
theorem witness_DrawSpriteFlipsTheSpriteCells :
    ∃ s t : State,
      (∀ row, row < (0xF : Nibble).toNat → s.i.toNat + row ≤ 0xFFF) ∧
      (0 < (0xF : Nibble).toNat ∧ 0xFFF < t.i.toNat + ((0xF : Nibble).toNat - 1)) := by
  refine ⟨{ State.reset with i := 0xFF1 }, { State.reset with i := 0xFF2 }, fun row h => ?_, by decide⟩
  have hr : row < 15 := h
  show 0xFF1 + row ≤ 0xFFF
  omega

/-- E4: the glyph F drawn twice at (0, 1); here `u` is the state after the first draw. -/
theorem witness_DrawingTwiceRestoresTheFramebuffer :
    ∃ s t r : State,
      (∀ row, row < (5 : Nibble).toNat → s.i.toNat + row ≤ 0xFFF) ∧
      exec (.drw 0 1 5) s = .next t ∧ t.mem = s.mem ∧ t.i = s.i ∧ t.getV 0 = s.getV 0 ∧
      t.getV 1 = s.getV 1 ∧ exec (.drw 0 1 5) t = .next r := by
  refine ⟨{ withRegs [(1, 1)] with i := 0x4B }, _, _, fun row h => ?_, rfl, rfl, rfl, rfl, rfl, rfl⟩
  have hr : row < 5 := h
  show 0x4B + row ≤ 0xFFF
  omega

/-- The last key, the first value that is none, a lined-up answer and no lined-up answer. -/
theorem witness_KeySkips :
    ∃ s t u : State, (s.getV 1).toNat = 0xF ∧ s.inputs.keyAnswers = [] ∧ (t.getV 1).toNat = 0x10 ∧
      (u.getV 1).toNat ≤ 0xF ∧ u.inputs.keyAnswers = [true, false] :=
  ⟨withRegs [(1, 0xF)], withRegs [(1, 0x10)], { State.reset with inputs := ⟨[true, false], [], 0⟩ },
    by decide⟩

theorem witness_KeyWaitAndResume : State.reset.fault = none ∧ 0xF ≤ 0xF ∧ 0xF < 0x10 := by decide

/-- An Fx15 executed, a step of another instruction or none, and an operation of the host that is no cycle and no reset. -/
theorem witness_TicksCountDownToZero :
    (∃ t, exec (.ldDTVx 0) State.reset = .next t ∧ ∀ x, Instr.ldDTVx 0 ≠ .ldSTVx x) ∧
      (∃ s t : State, step s = .next t ∧ ∀ x w, s.fetch = .word w → decode w ≠ some (.ldDTVx x)) ∧
      ∃ (op : HostOp) (s t : State) (reply : Reply), hostStep op s = .next (t, reply) ∧
        (∀ b, op ≠ .cycle b) ∧ ∀ p font rom, op ≠ .reset p font rom := by
  refine ⟨⟨_, rfl, fun x => by simp⟩, ⟨State.reset, _, rfl, fun x w h => ?_⟩,
    .resume 5, State.reset, State.reset, .done, rfl, by simp, by simp⟩
  have hw : Fetched.word 0x0000 = Fetched.word w := Eq.trans (by decide) h
  cases hw
  have hd : decode 0x0000 = none := by decide
  rw [hd]
  simp

/-- Each clause: the batch leaves the core Running, waiting, or faulted. -/
theorem witness_CycleIsBatchThenTick :
    ∃ s w f : State, (s.fault = none ∧ s.run ≠ .halted ∧
        ∃ s1, runBatch 0 s = .next s1 ∧ s1.fault = none ∧ s1.run = .running) ∧
      (w.fault = none ∧ w.run ≠ .halted ∧
        ∃ s1, runBatch 1 w = .next s1 ∧ s1.fault = none ∧ s1.run = .waitingForKey) ∧
      (f.fault = none ∧ f.run ≠ .halted ∧
        ∃ s1, runBatch 1 f = .next s1 ∧ (∃ r, s1.fault = some r)) :=
  ⟨State.reset, { State.reset with run := .waitingForKey }, State.reset,
    ⟨rfl, by decide, _, rfl, rfl, rfl⟩, ⟨rfl, by decide, _, rfl, rfl, rfl⟩,
    ⟨rfl, by decide, _, rfl, _, rfl⟩⟩

theorem witness_BatchStopsWhenNotRunning :
    (∃ s t : State, s.run = .running ∧ step s = .next t ∧ t.run = .running) ∧
      (∃ s t : State, s.run = .running ∧ step s = .next t ∧ t.run ≠ .running) ∧
      ∃ s : State, s.fault = none ∧ s.run = .waitingForKey :=
  ⟨⟨State.reset.withFetchWord 16 0x1200, _, rfl, rfl, rfl⟩, ⟨State.reset, _, rfl, rfl, by decide⟩,
    { State.reset with run := .waitingForKey }, rfl, rfl⟩

theorem witness_EveryCycleAnswers : State.reset.safe = true := by decide

theorem witness_HaltedIsTerminalButForReset :
    (∃ (s : State) (r : FaultRecord), s.fault = some r) ∧ romWf [] = true ∧ fontWf defaultFont = true ∧
      Params.wf ⟨some 1, true⟩ = true ∧ 0xF ≤ 0xF :=
  ⟨⟨{ State.reset with run := .halted, fault := some ⟨.stackUnderflow, 0x200, some 0x00EE, none⟩ }, _, rfl⟩,
    by decide⟩

theorem witness_OnlyIndexInstructionsChangeI :
    ∃ t, exec (.ldI 0xFFF) State.reset = .next t ∧ t.i ≠ State.reset.i :=
  ⟨_, rfl, by decide⟩

theorem witness_OnlyCallAndReturnChangeTheStack :
    ∃ t, exec (.call 0x300) State.reset = .next t ∧ t.stack ≠ State.reset.stack :=
  ⟨_, rfl, by decide⟩

theorem witness_OnlyDisplayInstructionsChangeTheFramebuffer :
    ∃ s t : State, exec .cls s = .next t ∧ t.fb ≠ s.fb :=
  ⟨{ State.reset with fb := Vector.replicate 32 1 }, _, rfl, by decide⟩

theorem witness_OnlyStoresChangeMemory :
    ∃ s t : State, exec (.storeRegs 0) s = .next t ∧ t.mem ≠ s.mem :=
  ⟨{ withRegs [(0, 0x55)] with i := 0x300 }, _, rfl, by decide⟩

theorem witness_OnlyFlagWritersChangeVF :
    ∃ t, exec (.ldImm 0xF 1) State.reset = .next t ∧ t.getV vf ≠ State.reset.getV vf :=
  ⟨_, rfl, by decide⟩

theorem witness_OtherInstructionsFallThrough :
    ∃ t, exec (.jp 0x300) State.reset = .next t ∧ t.pc ≠ State.reset.pc :=
  ⟨_, rfl, by decide⟩

/-- A store at the lowest address that a program may write. -/
theorem witness_ProtectedMemoryIsNeverWritten :
    ∃ s t : State, s.mem.wf = true ∧ s.params.protectLowMemory = true ∧ step s = .next t ∧
      t.mem.get 0x200 = 0x55 :=
  ⟨{ withRegs [(0, 0x55)] with i := 0x200, pc := 0x300, mem := [(0x300, 0xF0), (0x301, 0x55)] }, _,
    by decide, rfl, rfl, by decide⟩

theorem witness_DrawsAreSeenOnlyByTheDrawingInstructions :
    ∃ t, (∀ x kk, Instr.cls ≠ .rnd x kk) ∧ (∀ x, Instr.cls ≠ .skp x) ∧ (∀ x, Instr.cls ≠ .sknp x) ∧
      exec .cls State.reset = .next t :=
  ⟨_, by simp, by simp, by simp, rfl⟩

theorem witness_ParametersNeverChange : ∃ t, step State.reset = .next t :=
  step_next rfl (by decide)

/-- A core in a subroutine, at the last address that a fetch can start at. -/
def inSubroutine : State :=
  { State.reset with pc := 0xFFE, stack := [0x1000], mem := [(0xFFF, 0xEE)] }

theorem witness_ResetMeetsTheInvariant :
    ∃ t, inSubroutine.resetWith ⟨none, false⟩ defaultFont [0x12, 0x00] = .next t :=
  ⟨_, resetWith_next (by decide) (by decide) (by decide)⟩

theorem witness_ResumeWhileRunningChangesNothing :
    State.reset.fault = none ∧ State.reset.run = .running ∧ 0xF ≤ 0xF := by decide

theorem witness_StepKeepsTheInvariant : inSubroutine.Inv ∧ ∃ t, step inSubroutine = .next t := by
  refine ⟨⟨by decide, by decide, fun d h => ?_, fun w h => ?_, by decide, by decide⟩,
    step_next rfl (by decide)⟩
  · cases h
    decide
  · rw [List.mem_singleton.mp h]
    decide

/-- A core that waits for a key, and a `resume`; `waiting` meets the invariant too. -/
def waiting : State :=
  { State.reset with run := .waitingForKey, waitX := 3, pc := 0x202 }

theorem witness_HostOperationsKeepTheInvariant :
    waiting.Inv ∧ ∃ t reply, hostStep (.resume 7) waiting = .next (t, reply) := by
  refine ⟨⟨by decide, by decide, fun d h => ?_, fun w h => ?_, by decide, by decide⟩, _, _, rfl⟩
  · cases h
    decide
  · cases h

end Sys2Proof.Tests
end

section
/-! PROOFS. What no instruction can do (spec/00_scope.md R7, R8): see the environment's draws without
drawing, or change the session's parameters. Both are split into the instructions that branch, read off
their inversion lemmas in Laws/Exec.lean, and the straight-line ones, whose next state is a record update
that leaves the field in question alone. -/

namespace Sys2Proof.Machine

/-- Whether the stack is full does not depend on the draws (R22). -/
@[simp] theorem State.stackFull_inputs (s : State) (e : Inputs) :
    State.stackFull { s with inputs := e } = s.stackFull := rfl

/-- An instruction that does not draw commutes with replacing the draws: on both sides of a fault check or
a stack check it reads and writes other fields only (R8). -/
theorem exec_inputs {i : Instr} {s t : State} (e : Inputs) (hrnd : ∀ x kk, i ≠ .rnd x kk)
    (hskp : ∀ x, i ≠ .skp x) (hsknp : ∀ x, i ≠ .sknp x) (h : exec i s = .next t) :
    exec i { s with inputs := e } = .next { t with inputs := e } := by
  cases i
  case rnd x kk => exact absurd rfl (hrnd x kk)
  case skp x => exact absurd rfl (hskp x)
  case sknp x => exact absurd rfl (hsknp x)
  case ret =>
    obtain ⟨hs, rfl⟩ | ⟨rest, w, hs, rfl⟩ := execRet_cases h
    · have htop : s.stack.getLast? = none := List.getLast?_eq_none_iff.mpr hs
      simp only [exec, execRet, htop]; rfl
    · simp only [exec, execRet, hs, List.getLast?_concat, List.dropLast_concat]; rfl
  case call nnn =>
    obtain ⟨hc, rfl⟩ | ⟨hc, rfl⟩ := execCall_cases h <;>
      (simp only [exec, execCall, State.stackFull_inputs, hc]; rfl)
  case drw x y n =>
    obtain ⟨kind, addr, hc, rfl⟩ | ⟨hc, rfl⟩ := execDrw_cases h <;>
      (simp only [exec, execDrw, hc]; rfl)
  case ldB x =>
    obtain ⟨kind, addr, hc, rfl⟩ | ⟨hc, rfl⟩ := execLdB_cases h <;>
      (simp only [exec, execLdB, hc]; rfl)
  case storeRegs x =>
    obtain ⟨kind, addr, hc, rfl⟩ | ⟨hc, rfl⟩ := execStoreRegs_cases h <;>
      (simp only [exec, execStoreRegs, hc]; rfl)
  case loadRegs x =>
    obtain ⟨kind, addr, hc, rfl⟩ | ⟨hc, rfl⟩ := execLoadRegs_cases h
    · simp only [exec, execLoadRegs, hc]; rfl
    · simp only [exec, execLoadRegs, hc]
  all_goals obtain rfl := Host.Outcome.next.inj h; rfl

/-- No instruction changes the session's parameters, whether it completes or faults (R7). -/
theorem exec_params {i : Instr} {s t : State} (h : exec i s = .next t) : t.params = s.params := by
  cases i
  case ret => obtain ⟨-, rfl⟩ | ⟨_, _, -, rfl⟩ := execRet_cases h <;> simp
  case call => obtain ⟨-, rfl⟩ | ⟨-, rfl⟩ := execCall_cases h <;> simp
  case drw => obtain ⟨_, _, -, rfl⟩ | ⟨-, rfl⟩ := execDrw_cases h <;> simp
  case ldB => obtain ⟨_, _, -, rfl⟩ | ⟨-, rfl⟩ := execLdB_cases h <;> simp
  case storeRegs => obtain ⟨_, _, -, rfl⟩ | ⟨-, rfl⟩ := execStoreRegs_cases h <;> simp
  case loadRegs => obtain ⟨_, _, -, rfl⟩ | ⟨-, rfl⟩ := execLoadRegs_cases h <;> rfl
  case skp => obtain ⟨-, rfl⟩ | ⟨-, rfl⟩ := execSkp_cases h <;> simp
  case sknp => obtain ⟨-, rfl⟩ | ⟨-, rfl⟩ := execSknp_cases h <;> simp
  case rnd =>
    obtain rfl := Host.Outcome.next.inj h
    simp
  all_goals obtain rfl := Host.Outcome.next.inj h; rfl

/-- Settles O54. The second part is `exec_inputs`; the first is its instance at the draws that `s` already
has, where the left side is `exec i s` itself. -/
theorem drawsAreSeenOnlyByTheDrawingInstructions :
    Obligations.DrawsAreSeenOnlyByTheDrawingInstructions := by
  intro i s t e hrnd hskp hsknp h
  have hsame : exec i s = .next { t with inputs := s.inputs } :=
    exec_inputs s.inputs hrnd hskp hsknp h
  have ht : t = { t with inputs := s.inputs } := Host.Outcome.next.inj (h.symm.trans hsame)
  exact ⟨by rw [ht], exec_inputs e hrnd hskp hsknp h⟩

/-- Settles O55, by the four things a step can do. -/
theorem parametersNeverChange : Obligations.ParametersNeverChange := by
  intro s t h
  obtain ⟨-, ⟨-, rfl⟩ | ⟨-, _, -, rfl⟩ | ⟨-, _, -, -, rfl⟩ | ⟨-, _, i, -, -, hexec⟩⟩ := step_cases h
  · rfl
  · exact State.raise_params _ _
  · exact State.raise_params _ _
  · exact (exec_params hexec).trans (State.advancePc_params s)

end Sys2Proof.Machine
end

section
/-! PROOFS. What an instruction can do to the state, said once as the relation `Effect` over the shapes of
its next state, and the statements of spec/10_state.md that are read off it: which instructions change I,
the stack, the framebuffer and VF, and that a step keeps the invariant. -/

namespace Sys2Proof

/-- The destination of an instruction that writes one register and no flag (R90-R95, R101, R111). -/
def Instr.loadedReg : Instr → Option Nibble
  | .ldImm x _ | .addImm x _ | .ldReg x _ | .orReg x _ | .andReg x _ | .xorReg x _ | .rnd x _
  | .ldVxDT x => some x
  | _ => none

/-- The destination of an instruction that writes VF as the flag before it (R96-R100). -/
def Instr.flaggedReg : Instr → Option Nibble
  | .addReg x _ | .sub x _ | .shr x _ | .subn x _ | .shl x _ => some x
  | _ => none

/-- The conditional skips (R84-R87, R109, R110). -/
def Instr.skips : Instr → Bool
  | .seImm _ _ | .sneImm _ _ | .seReg _ _ | .sneReg _ _ | .skp _ | .sknp _ => true
  | _ => false

end Sys2Proof

namespace Sys2Proof.Machine

/-! ### Operand and stack facts -/

/-- A jump target is the address field unscaled (R60). -/
@[simp] theorem addressOf_toNat (nnn : Addr12) : (addressOf nnn).toNat = nnn.toNat := by
  simp only [addressOf, BitVec.toNat_setWidth]
  omega

/-- The largest target of Bnnn is 0xFFF + 0xFF (R88, R89). -/
theorem offsetTarget_le (nnn : Addr12) (b : Byte) : (offsetTarget nnn b).toNat ≤ 0x10FE := by
  have hn := Laws.addr12_le nnn
  have hb := Laws.byte_le b
  simp only [offsetTarget, BitVec.toNat_ofNat]
  omega

/-- The address after an instruction that was fetched is at most 0x1000 (R57, R81). -/
theorem pc_add_two_le {w : Word} (h : w.toNat ≤ 0xFFE) : (w + 2).toNat ≤ 0x1000 := by
  bv_omega

/-- A stack is full exactly when it holds `STACK_DEPTH` entries (R22). -/
theorem stackFull_iff {s : State} :
    s.stackFull = true ↔ s.params.stackDepth = some s.stack.length := by
  cases hd : s.params.stackDepth with
  | none => simp [State.stackFull, hd]
  | some d =>
    simp only [State.stackFull, hd, beq_iff_eq, Option.some.injEq]
    exact eq_comm

/-- A row that fixes the whole word (R61). -/
theorem encodedAs_of_word {b : Word} {f : Word → Instr} (h : decode b = some (f b)) :
    EncodedAs b 0xFFFF f := by
  intro w hw
  rw [show (0xFFFF : Word) = BitVec.allOnes 16 by decide, BitVec.and_allOnes] at hw
  rw [hw, h]

/-- A write check that no address of the block fails puts the block below 4096 (R44, R45). -/
theorem block_fits_of_checkWrite {p : Bool} {base n : Nat}
    (h : firstFailure (checkWrite p) base (n + 1) = none) : base + (n + 1) ≤ Config.memSize := by
  have hlast := (checkWrite_eq_none.mp (firstFailure_eq_none.mp h n (by omega))).1
  simp only [Config.memSize]
  omega

/-! ### The shapes of an instruction's next state -/

/-- `Effect i s t`: `t` is one of the states that `i` may leave `s` in. There is one constructor for each
set of fields that some instruction writes; it names the instructions that write them, and what bounds
the values written. -/
inductive Effect (i : Instr) (s : State) : State → Prop
  /-- A fault (R116). -/
  | raise (kind : FaultKind) (addr : Option Nat) : Effect i s (s.raiseIn i kind addr)
  /-- 00E0 (R76). -/
  | clear (hi : i = .cls) : Effect i s (s.setFb clearedFb)
  /-- Dxyn (R77). -/
  | draw (hi : ∃ x y n, i = .drw x y n) (fb : Framebuffer) (flag : Byte) :
    Effect i s ((s.setFb fb).setV vf flag)
  /-- 00EE on a stack with an entry (R81). -/
  | pop (hi : i = .ret) (rest : List Word) (w : Word) (hs : s.stack = rest ++ [w]) :
    Effect i s ((s.setStack rest).setPc w)
  /-- 2nnn on a stack that is not full (R83). -/
  | call (nnn : Addr12) (hi : i = .call nnn) (hs : s.stackFull = false) :
    Effect i s ((s.push s.pc).setPc (addressOf nnn))
  /-- 1nnn, Bnnn (R82, R88). -/
  | jump (hi : (∃ nnn, i = .jp nnn) ∨ ∃ nnn, i = .jpV0 nnn) (w : Word) (hw : w.toNat ≤ 0x10FE) :
    Effect i s (s.setPc w)
  /-- The skips, those over a key with a draw (R84-R87, R109, R110). -/
  | skip (hi : i.skips = true) (e : Inputs) (c : Bool) :
    Effect i s (({ s with inputs := e } : State).skipIf c)
  /-- A register and no flag, Cxkk with a draw (R90-R95, R101, R111). -/
  | load (x : Nibble) (hi : i.loadedReg = some x) (e : Inputs) (b : Byte) :
    Effect i s (({ s with inputs := e } : State).setV x b)
  /-- The flag and then a register (R96-R100). -/
  | loadWithFlag (x : Nibble) (hi : i.flaggedReg = some x) (flag b : Byte) :
    Effect i s ((s.setV vf flag).setV x b)
  /-- Fx65 (R108). -/
  | loadBlock (x : Nibble) (hi : i = .loadRegs x) (bs : List Byte) (hbs : bs.length = x.toNat + 1) :
    Effect i s { s with v := loadV s.v 0 bs }
  /-- Annn, Fx1E, Fx29 (R103-R105). -/
  | index (hi : (∃ nnn, i = .ldI nnn) ∨ (∃ x, i = .addI x) ∨ ∃ x, i = .ldF x) (w : Word) :
    Effect i s (s.setI w)
  /-- Fx33, Fx55 (R106, R107). -/
  | store (hi : (∃ x, i = .ldB x) ∨ ∃ x, i = .storeRegs x) (base : Nat) (bs : List Byte)
    (hbs : base + bs.length ≤ Config.memSize) : Effect i s (s.setMem (s.mem.writeBlock base bs))
  /-- Fx15 (R113). -/
  | delay (x : Nibble) (hi : i = .ldDTVx x) : Effect i s (s.setDT (s.getV x))
  /-- Fx18 (R114). -/
  | sound (x : Nibble) (hi : i = .ldSTVx x) : Effect i s (s.setST (s.getV x))
  /-- Fx0A (R112). -/
  | wait (x : Nibble) (hi : i = .ldVxK x) : Effect i s { s with waitX := x, run := .waitingForKey }

/-- Every instruction leaves one of these states. The ones that branch are read off their inversion lemmas;
each of the others has one next state. -/
theorem exec_effect {i : Instr} {s t : State} (h : exec i s = .next t) : Effect i s t := by
  cases i
  case cls => cases h; exact .clear rfl
  case ret =>
    obtain ⟨-, rfl⟩ | ⟨rest, w, hs, rfl⟩ := execRet_cases h
    · exact .raise _ _
    · exact .pop rfl rest w hs
  case call nnn =>
    obtain ⟨-, rfl⟩ | ⟨hs, rfl⟩ := execCall_cases h
    · exact .raise _ _
    · exact .call nnn rfl hs
  case drw x y n =>
    obtain ⟨_, _, -, rfl⟩ | ⟨-, rfl⟩ := execDrw_cases h
    · exact .raise _ _
    · exact .draw ⟨x, y, n, rfl⟩ _ _
  case skp x =>
    obtain ⟨-, rfl⟩ | ⟨-, rfl⟩ := execSkp_cases h
    · exact .raise _ _
    · rw [queryKey_frame]; exact .skip rfl _ _
  case sknp x =>
    obtain ⟨-, rfl⟩ | ⟨-, rfl⟩ := execSknp_cases h
    · exact .raise _ _
    · rw [queryKey_frame]; exact .skip rfl _ _
  case ldB x =>
    obtain ⟨_, _, -, rfl⟩ | ⟨hc, rfl⟩ := execLdB_cases h
    · exact .raise _ _
    · exact .store (.inl ⟨x, rfl⟩) _ _ (block_fits_of_checkWrite hc)
  case storeRegs x =>
    obtain ⟨_, _, -, rfl⟩ | ⟨hc, rfl⟩ := execStoreRegs_cases h
    · exact .raise _ _
    · exact .store (.inr ⟨x, rfl⟩) _ _ (by simpa using block_fits_of_checkWrite hc)
  case loadRegs x =>
    obtain ⟨_, _, -, rfl⟩ | ⟨-, rfl⟩ := execLoadRegs_cases h
    · exact .raise _ _
    · exact .loadBlock x rfl _ (Memory.readBlock_length _ _ _)
  case rnd x kk =>
    obtain rfl := Host.Outcome.next.inj h
    rw [randomByte_frame]
    exact .load x rfl _ _
  case jp nnn =>
    cases h
    exact .jump (.inl ⟨nnn, rfl⟩) _ (by have := Laws.addr12_le nnn; simp only [addressOf_toNat]; omega)
  case jpV0 nnn => cases h; exact .jump (.inr ⟨nnn, rfl⟩) _ (offsetTarget_le _ _)
  case ldI nnn => cases h; exact .index (.inl ⟨nnn, rfl⟩) _
  case addI x => cases h; exact .index (.inr (.inl ⟨x, rfl⟩)) _
  case ldF x => cases h; exact .index (.inr (.inr ⟨x, rfl⟩)) _
  case ldDTVx x => cases h; exact .delay x rfl
  case ldSTVx x => cases h; exact .sound x rfl
  case ldVxK x => cases h; exact .wait x rfl
  case seImm | sneImm | seReg | sneReg => cases h; exact .skip rfl s.inputs _
  case ldImm | addImm | ldReg | orReg | andReg | xorReg | ldVxDT =>
    cases h; exact .load _ rfl s.inputs _
  case addReg | sub | shr | subn | shl => cases h; exact .loadWithFlag _ rfl _ _

/-! ### Which instructions change a field -/

/-- Settles O47: every other effect leaves I alone. -/
theorem onlyIndexInstructionsChangeI : Obligations.OnlyIndexInstructionsChangeI := by
  intro i s t h hne
  cases exec_effect h with
  | index hi _ => exact hi
  | _ => exact absurd rfl hne

/-- Settles O48: every effect but a push and a pop leaves the stack alone. -/
theorem onlyCallAndReturnChangeTheStack : Obligations.OnlyCallAndReturnChangeTheStack := by
  intro i s t h hne
  cases exec_effect h with
  | pop hi _ _ _ => exact .inr hi
  | call nnn hi _ => exact .inl ⟨nnn, hi⟩
  | _ => exact absurd rfl hne

/-- Settles O49: every effect but clearing and drawing leaves the framebuffer alone. -/
theorem onlyDisplayInstructionsChangeTheFramebuffer :
    Obligations.OnlyDisplayInstructionsChangeTheFramebuffer := by
  intro i s t h hne
  cases exec_effect h with
  | clear hi => exact .inl hi
  | draw hi _ _ => exact .inr hi
  | _ => exact absurd rfl hne

/-- A register block load leaves the registers above the block as they were (R108). -/
theorem getV_loadV_above (s : State) {x r : Nibble} {bs : List Byte} (hbs : bs.length = x.toNat + 1)
    (hr : x.toNat < r.toNat) : ({ s with v := loadV s.v 0 bs } : State).getV r = s.getV r := by
  simp only [State.getV, loadV_getElem]
  rw [dif_neg (by omega)]

/-- VF is the highest register, so a register that is not VF lies below it. -/
theorem toNat_lt_vf {x : Nibble} (hx : x ≠ vf) : x.toNat < vf.toNat := by
  have hle := Laws.nibble_le x
  have hne : x.toNat ≠ vf.toNat := fun e => hx (BitVec.eq_of_toNat_eq e)
  have hvf : vf.toNat = 0xF := rfl
  omega

/-- Settles O51: drawing and the flag writers may change VF; a load of one register or of a block changes
VF only when its destination, the highest register it writes, is VF; every other effect leaves the
registers alone. -/
theorem onlyFlagWritersChangeVF : Obligations.OnlyFlagWritersChangeVF := by
  intro i s t h hne
  cases exec_effect h with
  | draw hi _ _ =>
    obtain ⟨_, _, _, rfl⟩ := hi
    trivial
  | loadWithFlag x hi _ _ => cases i <;> cases hi <;> trivial
  | load x hi e b =>
    have hx : x = vf := by
      by_contra hx
      exact hne (State.getV_setV_other _ b (Ne.symm hx))
    cases i <;> cases hi <;> exact hx
  | loadBlock x hi bs hbs =>
    subst hi
    change x = vf
    by_contra hx
    exact hne (getV_loadV_above s hbs (toNat_lt_vf hx))
  | _ => exact absurd rfl hne

/-! ### Call and return -/

/-- Settles O24. The stack's last entry decides: none is an underflow, one is popped. -/
theorem returnPopsTheStack : Obligations.ReturnPopsTheStack := by
  refine ⟨encodedAs_of_word (by decide), fun s rest w hs => ?_, fun s hs => ?_, rfl, rfl⟩
  · simp only [exec, execRet, hs, List.getLast?_concat, List.dropLast_concat]
    rfl
  · refine ⟨s.raiseIn .ret .stackUnderflow none, ?_, rfl, rfl⟩
    simp only [exec, execRet, hs, List.getLast?_nil]

/-- Settles O25. `stackFull_iff` says which branch a call takes. -/
theorem callPushesTheReturnAddress : Obligations.CallPushesTheReturnAddress := by
  refine ⟨encodedAs_of_op fun w hop => ?_, fun nnn s => ⟨fun hs => ?_, fun hs => ?_⟩⟩
  · have hop2 : fieldOp w = 0x2#4 := hop.trans (by decide)
    simp only [decode, hop2]
  · have hfull : ¬ s.stackFull = true := fun hf => hs (stackFull_iff.mp hf)
    refine ⟨(s.push s.pc).setPc (addressOf nnn), if_neg hfull, rfl, addressOf_toNat nnn, rfl⟩
  · exact ⟨s.raiseIn (.call nnn) .stackOverflow none, if_pos (stackFull_iff.mpr hs), rfl⟩

/-! ### The invariant and the state's operations -/

namespace State.Inv

variable {s : State}

/-- The invariant speaks of memory, parameters, stack, pc, run state and fault only. -/
theorem congr {t : State} (hs : s.Inv) (hmem : t.mem = s.mem) (hparams : t.params = s.params)
    (hstack : t.stack = s.stack) (hpc : t.pc = s.pc) (hrun : t.run = s.run)
    (hfault : t.fault = s.fault) : t.Inv := by
  obtain ⟨h1, h2, h3, h4, h5, h6⟩ := hs
  constructor <;> simpa only [hmem, hparams, hstack, hpc, hrun, hfault]

/-- A value within the bound may be written to pc (R89). -/
theorem setPc (hs : s.Inv) {w : Word} (hw : w.toNat ≤ 0x10FE) : (s.setPc w).Inv :=
  { hs with pcBound := hw }

/-- Raising a fault records it and halts, together (R116). -/
theorem raise (hs : s.Inv) (r : FaultRecord) : (s.raise r).Inv :=
  { hs with faultHalts := by simp }

/-- Replacing memory by a canonical one keeps the invariant (R38). -/
theorem setMem (hs : s.Inv) {m : Memory} (hm : m.wf = true) : (s.setMem m).Inv :=
  { hs with memWf := hm }

/-- A push of a return address on a stack that is not full (R22, R81). -/
theorem push (hs : s.Inv) {w : Word} (hfull : s.stackFull = false) (hw : w.toNat ≤ 0x1000) :
    (s.push w).Inv := by
  refine { hs with stackWithinDepth := fun d hd => ?_, returnAddresses := fun a ha => ?_ }
  · have hle := hs.stackWithinDepth d hd
    have hne : s.stack.length ≠ d := by
      rintro rfl
      exact absurd (stackFull_iff.mpr hd) (Bool.eq_false_iff.mp hfull)
    simp only [State.push_stack, List.length_append, List.length_singleton]
    omega
  · obtain ha | ha := List.mem_append.mp ha
    · exact hs.returnAddresses a ha
    · rwa [List.mem_singleton.mp ha]

/-- A pop leaves a shorter stack of the same return addresses (R23). -/
theorem setStack_rest (hs : s.Inv) {rest : List Word} {w : Word} (h : s.stack = rest ++ [w]) :
    (s.setStack rest).Inv := by
  refine { hs with stackWithinDepth := fun d hd => ?_, returnAddresses := fun a ha => ?_ }
  · have hle := hs.stackWithinDepth d hd
    simp only [h, List.length_append, List.length_singleton] at hle
    simp only [State.setStack_stack]
    omega
  · exact hs.returnAddresses a (h ▸ List.mem_append_left _ ha)

/-- The PC advance of an instruction that was fetched (R57). -/
theorem advancePc (hs : s.Inv) (hpc : s.pc.toNat ≤ 0xFFE) : s.advancePc.Inv :=
  hs.setPc ((pc_add_two_le hpc).trans (by decide))

end State.Inv

/-! ### The invariant along a step -/

/-- An instruction keeps the invariant when it runs unfaulted on a pc that holds the address after it, at
most 0x1000: a call pushes that pc, and a skip adds 2 to it. -/
theorem exec_keeps_inv {i : Instr} {s t : State} (hs : s.Inv) (hfault : s.fault = none)
    (hpc : s.pc.toNat ≤ 0x1000) (h : exec i s = .next t) : t.Inv := by
  cases exec_effect h with
  | raise kind addr => exact hs.raise _
  | pop _ rest w hst =>
    have hw : w.toNat ≤ 0x1000 := hs.returnAddresses w (by simp [hst])
    exact (hs.setStack_rest hst).setPc (by omega)
  | call nnn _ hfull =>
    have hn := Laws.addr12_le nnn
    exact (hs.push hfull hpc).setPc (by rw [addressOf_toNat]; omega)
  | jump _ w hw => exact hs.setPc hw
  | skip _ e c =>
    have hin : ({ s with inputs := e } : State).Inv := hs.congr rfl rfl rfl rfl rfl rfl
    refine hin.setPc ?_
    cases c <;> simp only [Bool.false_eq_true, if_true, if_false] <;> bv_omega
  | store _ base bs hbs => exact hs.setMem (Memory.writeBlock_wf hs.memWf (.inr hbs))
  | wait x _ => exact { hs with faultHalts := by simp [hfault] }
  | _ => exact hs.congr rfl rfl rfl rfl rfl rfl

/-- Settles O57, by the four things a step can do. A word is fetched only at or below 0xFFE, so an
instruction, and an unknown opcode, see a pc of at most 0x1000. -/
theorem stepKeepsTheInvariant : Obligations.StepKeepsTheInvariant := by
  intro s t hs h
  have hfetched : ∀ w, s.fetch = .word w → s.pc.toNat ≤ 0xFFE := fun w hw => by
    obtain ⟨-, ho⟩ | ⟨hle, -⟩ := fetch_cases s
    · simp [ho] at hw
    · exact hle
  obtain ⟨hf, ⟨-, rfl⟩ | ⟨-, _, -, rfl⟩ | ⟨-, w, hw, -, rfl⟩ | ⟨-, w, i, hw, -, hexec⟩⟩ := step_cases h
  · exact hs
  · exact hs.raise _
  · exact (hs.advancePc (hfetched w hw)).raise _
  · exact exec_keeps_inv (hs.advancePc (hfetched w hw)) hf (pc_add_two_le (hfetched w hw)) hexec

/-! ### The invariant at reset -/

/-- The font and the ROM, each inside the address space, leave a canonical memory (R142-R144). -/
theorem resetState_mem_wf {p : Params} {font rom : List Byte} (hrom : romWf rom = true)
    (hfont : fontWf font = true) : (resetState p font rom).mem.wf = true := by
  simp only [romWf, decide_eq_true_eq] at hrom
  simp only [fontWf, beq_iff_eq] at hfont
  refine Memory.writeBlock_wf (Memory.writeBlock_wf Memory.wf_nil (.inr ?_)) (.inr ?_)
  · simp only [hfont, Config.fontBytes, Config.memSize]
    omega
  · simp only [Config.programStart, Config.maxRomBytes, Config.memSize] at hrom ⊢
    omega

/-- Settles O56. -/
theorem resetMeetsTheInvariant : Obligations.ResetMeetsTheInvariant := by
  have hreset : State.reset.Inv :=
    ⟨rfl, rfl, fun _ _ => Nat.zero_le _, fun _ hw => absurd hw List.not_mem_nil, by decide, by decide⟩
  refine ⟨hreset, fun s t p font rom h => ?_⟩
  obtain ⟨hrom, hfont, hp, rfl⟩ := resetWith_cases h
  exact { hreset with
    memWf := resetState_mem_wf (p := p) hrom hfont
    paramsWf := hp
    stackWithinDepth := fun _ _ => Nat.zero_le _ }

end Sys2Proof.Machine
end

section
/-! PROOFS. Memory (spec/20_memory.md): a canonical memory is the bytes it reads as; an instruction changes
memory only by a checked block store through I; a fetch reads what such a store left; the reset vector. -/

namespace Sys2Proof.Machine

/-! ### A canonical memory is its bytes (R38) -/

/-- The canonical form of a memory with a first cell (R38). -/
theorem Memory.wfFrom_cons {lo k : Nat} {b : Byte} {m : Memory} :
    Memory.wfFrom lo ((k, b) :: m) = true ↔
      lo ≤ k ∧ k < Config.memSize ∧ b ≠ resetByte k ∧ m.wfFrom (k + 1) = true := by
  simp only [Memory.wfFrom, Bool.and_eq_true, decide_eq_true_eq, bne_iff_ne, and_assoc]

/-- Reading the address of the first cell. -/
@[simp] theorem Memory.get_cons_self (k : Nat) (b : Byte) (m : Memory) :
    Memory.get ((k, b) :: m) k = b := if_pos rfl

/-- Reading an address other than that of the first cell. -/
theorem Memory.get_cons_of_ne {k a : Nat} (b : Byte) (m : Memory) (h : k ≠ a) :
    Memory.get ((k, b) :: m) a = m.get a := if_neg h

/-- The first cell of a canonical memory is seen: its address does not read as unlisted. -/
theorem Memory.get_first_ne_resetByte {lo k : Nat} {b : Byte} {m : Memory}
    (hm : Memory.wfFrom lo ((k, b) :: m) = true) : Memory.get ((k, b) :: m) k ≠ resetByte k := by
  obtain ⟨-, -, hb, -⟩ := Memory.wfFrom_cons.mp hm
  rwa [Memory.get_cons_self]

/-- A canonical memory that reads as another one does at the first address the other lists cannot begin
above that address, since it would read as unlisted there. -/
theorem Memory.first_le_of_get_eq {lo lo' k k' : Nat} {b b' : Byte} {m m' : Memory}
    (hm : Memory.wfFrom lo ((k, b) :: m) = true) (hm' : Memory.wfFrom lo' ((k', b') :: m') = true)
    (h : Memory.get ((k, b) :: m) k = Memory.get ((k', b') :: m') k) : k' ≤ k := by
  by_contra hlt
  obtain ⟨-, hcell'⟩ := Memory.wfFrom_cons.mp hm'
  have hbelow : Memory.get ((k', b') :: m') k = resetByte k :=
    Memory.get_below (Memory.wfFrom_cons.mpr ⟨le_refl k', hcell'⟩) (by omega)
  exact Memory.get_first_ne_resetByte hm (h.trans hbelow)

/-- Canonical memories that read the same everywhere are the same list. By induction on the cells: the
first addresses agree, each being at or below the other, then the first bytes, then the rest. -/
theorem Memory.ext_from {m m' : Memory} {lo lo' : Nat} (hm : m.wfFrom lo = true)
    (hm' : m'.wfFrom lo' = true) (h : ∀ a, m.get a = m'.get a) : m = m' := by
  induction m generalizing m' lo lo' with
  | nil =>
    cases m' with
    | nil => rfl
    | cons c m' => exact absurd (h c.1).symm (Memory.get_first_ne_resetByte hm')
  | cons c m ih =>
    obtain ⟨k, b⟩ := c
    cases m' with
    | nil => exact absurd (h k) (Memory.get_first_ne_resetByte hm)
    | cons c' m' =>
      obtain ⟨k', b'⟩ := c'
      obtain rfl : k = k' := Nat.le_antisymm
        (Memory.first_le_of_get_eq hm' hm (h k').symm) (Memory.first_le_of_get_eq hm hm' (h k))
      obtain rfl : b = b' := by simpa using h k
      obtain ⟨-, -, -, htail⟩ := Memory.wfFrom_cons.mp hm
      obtain ⟨-, -, -, htail'⟩ := Memory.wfFrom_cons.mp hm'
      have hrest : ∀ a, Memory.get m a = Memory.get m' a := fun a => by
        by_cases ha : k = a
        · rw [Memory.get_below htail (by omega), Memory.get_below htail' (by omega)]
        · simpa only [Memory.get_cons_of_ne _ _ ha] using h a
      rw [ih htail htail' hrest]

/-- Canonical memories that read the same everywhere are equal (R38). -/
theorem Memory.ext_of_wf {m m' : Memory} (hm : m.wf = true) (hm' : m'.wf = true)
    (h : ∀ a, m.get a = m'.get a) : m = m' :=
  Memory.ext_from hm hm' h

/-- Writes to two different addresses commute: in both orders every address reads the same (R44, R50). -/
theorem Memory.set_comm {m : Memory} (hm : m.wf = true) {a b : Nat} (ha : a < Config.memSize)
    (hb : b < Config.memSize) (hab : a ≠ b) (v v' : Byte) :
    (m.set a v).set b v' = (m.set b v').set a v := by
  have hma : (m.set a v).wf = true := Memory.set_wf hm ha v
  have hmb : (m.set b v').wf = true := Memory.set_wf hm hb v'
  refine Memory.ext_of_wf (Memory.set_wf hma hb v') (Memory.set_wf hmb ha v) fun x => ?_
  rw [Memory.get_set hma, Memory.get_set hm, Memory.get_set hmb, Memory.get_set hm]
  split
  · rename_i hx
    subst hx
    rw [if_neg hab.symm]
  · rfl

/-- Settles O33, by extensionality. -/
theorem memoryIsItsBytes : Obligations.MemoryIsItsBytes :=
  ⟨fun _ _ => Memory.ext_of_wf, fun _ _ _ v v' hm ha hb hab => Memory.set_comm hm ha hb hab v v'⟩

/-! ### The only memory change is a checked store -/

/-- Settles O50: every effect but a store leaves memory alone. -/
theorem onlyStoresChangeMemory : Obligations.OnlyStoresChangeMemory := by
  intro i s t h hne
  cases exec_effect h with
  | store hi _ _ _ => exact hi
  | _ => exact absurd rfl hne

/-- What an instruction can do to memory: nothing, or a block store at I of which no address fails the
write check (R44, R45, R48). -/
theorem exec_mem_cases {i : Instr} {s t : State} (h : exec i s = .next t) :
    t.mem = s.mem ∨
      ∃ bs, firstFailure (checkWrite s.params.protectLowMemory) s.i.toNat bs.length = none ∧
        t.mem = s.mem.writeBlock s.i.toNat bs := by
  by_cases hne : t.mem = s.mem
  · exact .inl hne
  obtain ⟨x, rfl⟩ | ⟨x, rfl⟩ := onlyStoresChangeMemory i s t h hne
  · obtain ⟨_, _, -, rfl⟩ | ⟨hc, rfl⟩ := execLdB_cases h
    · exact .inl rfl
    · exact .inr ⟨bcdDigits (s.getV x), hc, rfl⟩
  · obtain ⟨_, _, -, rfl⟩ | ⟨hc, rfl⟩ := execStoreRegs_cases h
    · exact .inl rfl
    · exact .inr ⟨s.firstRegs x, by rwa [firstRegs_length], rfl⟩

/-- A block store that passes the write check leaves every byte that may not be written as it was. -/
theorem Memory.get_writeBlock_of_not_writable {m : Memory} (hm : m.wf = true) {p : Bool} {base a : Nat}
    {bs : List Byte} (hc : firstFailure (checkWrite p) base bs.length = none)
    (ha : checkWrite p a ≠ none) : (m.writeBlock base bs).get a = m.get a := by
  have hfits : bs = [] ∨ base + bs.length ≤ Config.memSize := by
    cases bs with
    | nil => exact .inl rfl
    | cons b bs => exact .inr (block_fits_of_checkWrite hc)
  rw [Memory.get_writeBlock hm hfits, dif_neg]
  rintro ⟨hle, hlt⟩
  have hpass := firstFailure_eq_none.mp hc (a - base) hlt
  rw [Nat.add_sub_cancel' hle] at hpass
  exact ha hpass

/-- No instruction writes an address at or below 0x1FF under the protection (R40, R44). -/
theorem exec_get_protected {i : Instr} {s t : State} (hm : s.mem.wf = true)
    (hp : s.params.protectLowMemory = true) (h : exec i s = .next t) {a : Nat} (ha : a ≤ 0x1FF) :
    t.mem.get a = s.mem.get a := by
  obtain hsame | ⟨bs, hc, hstore⟩ := exec_mem_cases h
  · rw [hsame]
  · rw [hstore]
    refine Memory.get_writeBlock_of_not_writable hm hc fun hpass => ?_
    have habove : 0x1FF < a := (checkWrite_eq_none.mp hpass).2 hp
    omega

/-- Settles O53, by the four things a step can do: only an executed instruction could write memory. -/
theorem protectedMemoryIsNeverWritten : Obligations.ProtectedMemoryIsNeverWritten := by
  intro s t hm hp h a ha
  obtain ⟨-, ⟨-, rfl⟩ | ⟨-, _, -, rfl⟩ | ⟨-, _, -, -, rfl⟩ | ⟨-, _, i, -, -, hexec⟩⟩ := step_cases h
  · rfl
  · rfl
  · rfl
  · exact exec_get_protected (s := s.advancePc) hm hp hexec ha

/-! ### What a completed store leaves, and what a fetch reads of it -/

/-- Register k of a registers-to-memory block, for k in the block (R107). -/
theorem firstRegs_getElem_eq_getV (s : State) (x : Nibble) (k : Nat) (h : k < (s.firstRegs x).length) :
    (s.firstRegs x)[k] = s.getV (BitVec.ofNat 4 k) := by
  have hk : k < 16 := by
    have hx := Laws.nibble_le x
    rw [firstRegs_length] at h
    omega
  simp only [firstRegs_getElem, State.getV, BitVec.toNat_ofNat, Nat.reducePow, Nat.mod_eq_of_lt hk]

/-- Hundreds, tens and ones, by their distance from I (R106). -/
theorem bcdDigits_getElem (b : Byte) (k : Nat) (h : k < (bcdDigits b).length) :
    (bcdDigits b)[k] = BitVec.ofNat 8
      (if k = 0 then b.toNat / 100 else if k = 1 then b.toNat / 10 % 10 else b.toNat % 10) := by
  match k, h with
  | 0, _ | 1, _ | 2, _ => rfl

/-- Every byte of the memory that a completed Fx55 leaves (R107). -/
theorem execStoreRegs_get {x : Nibble} {s t : State} (hm : s.mem.wf = true)
    (h : exec (.storeRegs x) s = .next t) (hf : t.fault = none) (a : Nat) :
    t.mem.get a =
      byteAfterStore s.mem s.i.toNat (x.toNat + 1) (fun k => s.getV (BitVec.ofNat 4 k)) a := by
  obtain ⟨_, _, -, rfl⟩ | ⟨hc, rfl⟩ := execStoreRegs_cases h
  · simp at hf
  · exact get_writeBlock_eq_byteAfterStore hm (by simpa using block_fits_of_checkWrite hc)
      (firstRegs_length s x) (firstRegs_getElem_eq_getV s x) a

/-- Every byte of the memory that a completed Fx33 leaves (R106). -/
theorem execLdB_get {x : Nibble} {s t : State} (hm : s.mem.wf = true)
    (h : exec (.ldB x) s = .next t) (hf : t.fault = none) (a : Nat) :
    t.mem.get a = byteAfterStore s.mem s.i.toNat 3 (fun k => BitVec.ofNat 8
      (if k = 0 then (s.getV x).toNat / 100
        else if k = 1 then (s.getV x).toNat / 10 % 10 else (s.getV x).toNat % 10)) a := by
  obtain ⟨_, _, -, rfl⟩ | ⟨hc, rfl⟩ := execLdB_cases h
  · simp at hf
  · exact get_writeBlock_eq_byteAfterStore hm (block_fits_of_checkWrite hc) (bcdDigits_length _)
      (bcdDigits_getElem _) a

/-- A fetch inside memory gives the word of the two bytes at pc (R57). -/
theorem fetch_eq_word {s : State} (hpc : s.pc.toNat ≤ 0xFFE) :
    s.fetch = .word (wordOfBytes (s.mem.get s.pc.toNat) (s.mem.get (s.pc.toNat + 1))) := by
  obtain ⟨hgt, -⟩ | ⟨-, hw⟩ := fetch_cases s
  · omega
  · exact hw

/-- Settles O32: the fetch reads memory itself, byte by byte, so it sees what the store left. -/
theorem storedBytesAreFetched : Obligations.StoredBytesAreFetched := by
  refine ⟨fun x s t u hm _ h hf hmem hpc => ?_, fun x s t u hm _ h hf hmem hpc => ?_⟩
  · rw [fetch_eq_word hpc, hmem, execStoreRegs_get hm h hf, execStoreRegs_get hm h hf]
  · rw [fetch_eq_word hpc, hmem, execLdB_get hm h hf, execLdB_get hm h hf]

/-! ### The reset vector -/

/-- Settles O12: a reset that starts a session sets pc, and 0x200 is inside memory. -/
theorem resetVectorIs0x200 : Obligations.ResetVectorIs0x200 := by
  refine ⟨rfl, fun s t p font rom h => ?_⟩
  obtain ⟨-, -, -, rfl⟩ := resetWith_cases h
  have hpc : (0x200 : Word).toNat ≤ 0xFFE := by decide
  exact ⟨rfl, fetch_eq_word hpc⟩

end Sys2Proof.Machine
end

section
/-! PROOFS. Encoding and decode (spec/30_encoding.md R58-R68). The decoder inverts the encoder in both
directions, and the words that match the row of an instruction are the words of that row's instructions;
the table and its sub-opcodes are read off these. -/

namespace Sys2Proof

/-! ### The encoder and the decoder are inverse -/

/-- Decoding the word of an instruction gives the instruction: the fixed digits select its arm, and each
operand is read back from its field. -/
@[simp] theorem decode_encode (i : Instr) : decode (encode i) = some i := by
  cases i
  case cls | ret => decide
  case jp | call | seImm | sneImm | seReg | ldImm | addImm | sneReg | ldI | jpV0 | rnd | drw =>
    simp [encode, decode]
  case ldReg | orReg | andReg | xorReg | addReg | sub | shr | subn | shl =>
    simp [encode, decode, decode8]
  case skp | sknp => simp [encode, decode, decodeE]
  case ldVxDT | ldVxK | ldDTVx | ldSTVx | addI | ldF | ldB | storeRegs | loadRegs =>
    simp [encode, decode, decodeF]

/-- Settles O1. Every instruction is well-formed, its operand types carrying R60's ranges. -/
theorem encodeThenDecodeGivesInstruction : Obligations.EncodeThenDecodeGivesInstruction :=
  fun i _ => decode_encode i

/-- A word with this top digit, from its address field. -/
theorem encodeNNN_of_op {w : Word} {o : Nibble} (ho : fieldOp w = o) :
    encodeNNN o (fieldNNN w) = w := by
  rw [← ho, encodeNNN_fields]

/-- A word with this top digit, from its register number and low byte. -/
theorem encodeXKK_of_op {w : Word} {o : Nibble} (ho : fieldOp w = o) :
    encodeXKK o (fieldX w) (fieldKK w) = w := by
  rw [← ho, encodeXKK_fields]

/-- A word with this top digit and low byte, from its register number. -/
theorem encodeXKK_of_op_kk {w : Word} {o : Nibble} {kk : Byte} (ho : fieldOp w = o)
    (hk : fieldKK w = kk) : encodeXKK o (fieldX w) kk = w := by
  rw [← ho, ← hk, encodeXKK_fields]

/-- A word with this top and low digit, from its two register numbers. -/
theorem encodeXYN_of_op_n {w : Word} {o n : Nibble} (ho : fieldOp w = o) (hn : fieldN w = n) :
    encodeXYN o (fieldX w) (fieldY w) n = w := by
  rw [← ho, ← hn, encodeXYN_fields]

/-- Family 0x0 (R63). -/
theorem encode_of_decode0 {w : Word} {i : Instr} (h : decode0 w = some i) : encode i = w := by
  unfold decode0 at h
  split at h <;> cases h <;> rfl

/-- Family 0x8 (R64). -/
theorem encode_of_decode8 {w : Word} {i : Instr} (ho : fieldOp w = 0x8#4) (h : decode8 w = some i) :
    encode i = w := by
  unfold decode8 at h
  split at h <;> cases h <;> exact encodeXYN_of_op_n ho ‹_›

/-- Family 0xE (R65). -/
theorem encode_of_decodeE {w : Word} {i : Instr} (ho : fieldOp w = 0xE#4) (h : decodeE w = some i) :
    encode i = w := by
  unfold decodeE at h
  split at h <;> cases h <;> exact encodeXKK_of_op_kk ho ‹_›

/-- Family 0xF (R66). -/
theorem encode_of_decodeF {w : Word} {i : Instr} (ho : fieldOp w = 0xF#4) (h : decodeF w = some i) :
    encode i = w := by
  unfold decodeF at h
  split at h <;> cases h <;> exact encodeXKK_of_op_kk ho ‹_›

/-- Encoding the instruction of a word gives the word: the arm that the word was decoded by fixes the
digits that the instruction does not hold. -/
theorem encode_of_decode {w : Word} {i : Instr} (h : decode w = some i) : encode i = w := by
  unfold decode at h
  split at h
  case h_1 => exact encode_of_decode0 h
  case h_2 | h_3 | h_11 | h_12 => cases h; exact encodeNNN_of_op ‹_›
  case h_4 | h_5 | h_7 | h_8 | h_13 => cases h; exact encodeXKK_of_op ‹_›
  case h_6 | h_10 =>
    split at h <;> cases h
    exact encodeXYN_of_op_n ‹_› ‹_›
  case h_9 => exact encode_of_decode8 ‹_› h
  case h_14 => cases h; exact encodeXYN_of_op_n ‹_› rfl
  case h_15 => exact encode_of_decodeE ‹_› h
  case h_16 => exact encode_of_decodeF ‹_› h
  case h_17 => cases h

/-- Settles O2, by the families of the decoder. -/
theorem decodeThenEncodeGivesWord : Obligations.DecodeThenEncodeGivesWord :=
  fun _ _ h => encode_of_decode h

/-! ### The opcode table (R61, R62) -/

/-- The table has the row of every instruction. -/
theorem row_mem_opcodeRows (i : Instr) : i.row ∈ opcodeRows := by
  cases i <;> simp [Instr.row, opcodeRows]

/-- One instruction of each row, in the table's order. -/
def rowInstrs : List Instr :=
  [.cls, .ret, .jp 0, .call 0, .seImm 0 0, .sneImm 0 0, .seReg 0 0, .ldImm 0 0, .addImm 0 0,
    .ldReg 0 0, .orReg 0 0, .andReg 0 0, .xorReg 0 0, .addReg 0 0, .sub 0 0, .shr 0 0, .subn 0 0,
    .shl 0 0, .sneReg 0 0, .ldI 0, .jpV0 0, .rnd 0 0, .drw 0 0 0, .skp 0, .sknp 0, .ldVxDT 0,
    .ldVxK 0, .ldDTVx 0, .ldSTVx 0, .addI 0, .ldF 0, .ldB 0, .storeRegs 0, .loadRegs 0]

theorem map_row_rowInstrs : rowInstrs.map Instr.row = opcodeRows := rfl

/-- The table has no other rows: each one is the row of an instruction. -/
theorem exists_row_eq {r : OpcodeRow} (h : r ∈ opcodeRows) : ∃ i : Instr, i.row = r := by
  rw [← map_row_rowInstrs] at h
  obtain ⟨i, -, hi⟩ := List.mem_map.mp h
  exact ⟨i, hi⟩

open Laws.EncodingMatchesRow in
/-- The word of an instruction matches the instruction's row. -/
theorem row_holds_encode (i : Instr) : i.row.holds (encode i) = true := by
  cases i
  exacts [cls, ret, jp _, call _, seImm _ _, sneImm _ _, seReg _ _, ldImm _ _, addImm _ _,
    ldReg _ _, orReg _ _, andReg _ _, xorReg _ _, addReg _ _, sub _ _, shr _ _, subn _ _, shl _ _,
    sneReg _ _, ldI _, jpV0 _, rnd _ _, drw _ _ _, skp _, sknp _, ldVxDT _, ldVxK _, ldDTVx _,
    ldSTVx _, addI _, ldF _, ldB _, storeRegs _, loadRegs _]

/-- A word that matches the row of an instruction decodes to an instruction of that row: the row's mask
passes the digits that the decoder looks at. -/
theorem exists_decode_of_row_holds {i : Instr} {w : Word} (h : i.row.holds w = true) :
    ∃ j, decode w = some j ∧ j.row = i.row := by
  have hmask : w &&& i.row.mask = i.row.bits := eq_of_beq h
  cases i <;> dsimp only [Instr.row] at hmask ⊢
  case cls | ret =>
    obtain rfl := (BitVec.and_allOnes (x := w)).symm.trans hmask
    exact ⟨_, rfl, rfl⟩
  case jp | call | ldI | jpV0 | seImm | sneImm | ldImm | addImm | rnd | drw =>
    have ho := fields_of_mask_F000 hmask
    rw [decode, ho]
    exact ⟨_, rfl, rfl⟩
  case seReg | sneReg =>
    obtain ⟨ho, hn⟩ := fields_of_mask_F00F hmask
    rw [decode, ho, hn]
    exact ⟨_, rfl, rfl⟩
  case ldReg | orReg | andReg | xorReg | addReg | sub | shr | subn | shl =>
    obtain ⟨ho, hn⟩ := fields_of_mask_F00F hmask
    rw [decode, ho, decode8, hn]
    exact ⟨_, rfl, rfl⟩
  case skp | sknp =>
    obtain ⟨ho, hk⟩ := fields_of_mask_F0FF hmask
    rw [decode, ho, decodeE, hk]
    exact ⟨_, rfl, rfl⟩
  case ldVxDT | ldVxK | ldDTVx | ldSTVx | addI | ldF | ldB | storeRegs | loadRegs =>
    obtain ⟨ho, hk⟩ := fields_of_mask_F0FF hmask
    rw [decode, ho, decodeF, hk]
    exact ⟨_, rfl, rfl⟩

/-- A word that matches a row of the table decodes to an instruction of that row. -/
theorem exists_decode_of_holds {r : OpcodeRow} (hr : r ∈ opcodeRows) {w : Word}
    (h : r.holds w = true) : ∃ j : Instr, decode w = some j ∧ j.row = r := by
  obtain ⟨i, rfl⟩ := exists_row_eq hr
  exact exists_decode_of_row_holds h

/-- A decoded word matches the row of its instruction, being that instruction's word. -/
theorem row_holds_of_decode {w : Word} {i : Instr} (h : decode w = some i) : i.row.holds w = true :=
  encode_of_decode h ▸ row_holds_encode i

/-- No word matches two rows: it decodes to one instruction, which is of one row. -/
theorem row_unique {w : Word} {r r' : OpcodeRow} (hr : r ∈ opcodeRows) (hr' : r' ∈ opcodeRows)
    (h : r.holds w = true) (h' : r'.holds w = true) : r = r' := by
  obtain ⟨i, hi, rfl⟩ := exists_decode_of_holds hr h
  obtain ⟨i', hi', rfl⟩ := exists_decode_of_holds hr' h'
  rw [Option.some.inj (hi.symm.trans hi')]

/-! ### Families with sub-opcodes or fixed digits (R63-R67) -/

/-- Settles O6: each word is, bit by bit, the word of its instruction. -/
theorem writtenWordsDecode : Obligations.WrittenWordsDecode :=
  ⟨decode_encode .cls, decode_encode (.call 0x345), decode_encode (.addImm 0xA 0x2A),
    decode_encode (.sub 0x1 0x2), decode_encode (.ldI 0x300), decode_encode (.drw 0x1 0x2 0x5),
    decode_encode (.skp 0x7), decode_encode (.loadRegs 0xC)⟩

/-- Family 0x0 has two words (R63). -/
theorem decode0_eq_none {w : Word} (hcls : w ≠ 0x00E0) (hret : w ≠ 0x00EE) : decode0 w = none := by
  unfold decode0
  split
  · exact absurd rfl hcls
  · exact absurd rfl hret
  · rfl

/-- The unlisted low nibbles of family 0x8 (R64). -/
theorem decode8_eq_none {w : Word}
    (h : fieldN w ∈ [0x8#4, 0x9#4, 0xA#4, 0xB#4, 0xC#4, 0xD#4, 0xF#4]) : decode8 w = none := by
  simp only [List.mem_cons, List.not_mem_nil, or_false] at h
  obtain h | h | h | h | h | h | h := h <;> (rw [decode8, h]; rfl)

/-- The unlisted low bytes of family 0xE (R65). -/
theorem decodeE_eq_none {w : Word} (h : fieldKK w ∉ [0x9E#8, 0xA1#8]) : decodeE w = none := by
  unfold decodeE
  split
  case h_1 hk | h_2 hk => simp [hk] at h
  case h_3 => rfl

/-- The unlisted low bytes of family 0xF (R66). -/
theorem decodeF_eq_none {w : Word}
    (h : fieldKK w ∉ [0x07#8, 0x0A#8, 0x15#8, 0x18#8, 0x1E#8, 0x29#8, 0x33#8, 0x55#8, 0x65#8]) :
    decodeF w = none := by
  unfold decodeF
  split
  case h_1 hk | h_2 hk | h_3 hk | h_4 hk | h_5 hk | h_6 hk | h_7 hk | h_8 hk | h_9 hk =>
    simp [hk] at h
  case h_10 => rfl

/-- Settles O4: a listed sub-opcode makes the word of its instruction, and an unlisted one falls through
its family's arms. -/
theorem subOpcodesSelectTheOperation : Obligations.SubOpcodesSelectTheOperation := by
  refine ⟨fun x y => ⟨decode_encode (.ldReg x y), decode_encode (.orReg x y),
      decode_encode (.andReg x y), decode_encode (.xorReg x y), decode_encode (.addReg x y),
      decode_encode (.sub x y), decode_encode (.shr x y), decode_encode (.subn x y),
      decode_encode (.shl x y), fun n hn => ?_⟩,
    fun x => ⟨decode_encode (.skp x), decode_encode (.sknp x), fun kk hkk => ?_⟩,
    fun x => ⟨decode_encode (.ldVxDT x), decode_encode (.ldVxK x), decode_encode (.ldDTVx x),
      decode_encode (.ldSTVx x), decode_encode (.addI x), decode_encode (.ldF x),
      decode_encode (.ldB x), decode_encode (.storeRegs x), decode_encode (.loadRegs x),
      fun kk hkk => ?_⟩⟩
  · rw [decode, fieldOp_encodeXYN]
    exact decode8_eq_none (by rwa [fieldN_encodeXYN])
  · rw [decode, fieldOp_encodeXKK]
    exact decodeE_eq_none (by rwa [fieldKK_encodeXKK])
  · rw [decode, fieldOp_encodeXKK]
    exact decodeF_eq_none (by rwa [fieldKK_encodeXKK])

/-- Settles O5. Family 0x0 matches the whole word; families 0x5 and 0x9 compare the low nibble with 0. -/
theorem fixedDigitsOfFamilies059AreChecked : Obligations.FixedDigitsOfFamilies059AreChecked := by
  refine ⟨fun w ho hcls hret => ?_, decode_encode .cls, decode_encode .ret,
    fun x y n hn => ⟨?_, ?_⟩⟩
  · rw [decode, ho]
    exact decode0_eq_none hcls hret
  · rw [decode, fieldOp_encodeXYN, fieldN_encodeXYN]
    exact if_neg hn
  · rw [decode, fieldOp_encodeXYN, fieldN_encodeXYN]
    exact if_neg hn

end Sys2Proof

namespace Sys2Proof.Machine

/-! ### A step of a Running core (R57) -/

/-- A Running core with no fault recorded takes R57's step. -/
theorem step_of_running {s : State} (hr : s.run = .running) (hf : s.fault = none) :
    step s = stepRunning s := by
  simp only [step, hr, hf]

/-- Settles O7: inside memory the fetch gives the word at pc. -/
theorem stepRunsTheDecodedInstruction : Obligations.StepRunsTheDecodedInstruction := by
  intro s i hr hf hpc hdec
  rw [step_of_running hr hf]
  simp only [stepRunning, fetch_eq_word hpc, hdec]
  rfl

/-- A fetch above 0xFFE gives the first address above 0xFFF (R57, D8). -/
theorem fetch_eq_outOfRange {s : State} (hpc : 0xFFE < s.pc.toNat) :
    s.fetch = .outOfRange (if 0xFFF < s.pc.toNat then s.pc.toNat else s.pc.toNat + 1) := by
  obtain ⟨-, ho⟩ | ⟨hle, -⟩ := fetch_cases s
  · exact ho
  · omega

/-- Settles O8: the fault is raised before the PC advance. -/
theorem fetchAboveMemoryHalts : Obligations.FetchAboveMemoryHalts := by
  intro s hr hf hpc
  rw [step_of_running hr hf]
  simp only [stepRunning, fetch_eq_outOfRange hpc]
  rfl

/-- Settles O3. The table's part is `row_holds_of_decode` and its converse `exists_decode_of_holds`; a
Running core that fetches a word of no row raises after the PC advance. -/
theorem decodeIsExactlyTheOpcodeTable : Obligations.DecodeIsExactlyTheOpcodeTable := by
  refine ⟨fun w => ⟨?_, ?_⟩, fun w i h => ⟨row_mem_opcodeRows i, row_holds_of_decode h⟩,
    fun w r hr r' hr' => row_unique hr hr', fun s w hr hf hw hdec => ?_, rfl, rfl⟩
  · rintro ⟨i, h⟩
    exact ⟨i.row, row_mem_opcodeRows i, row_holds_of_decode h⟩
  · rintro ⟨r, hr, h⟩
    obtain ⟨i, hi, -⟩ := exists_decode_of_holds hr h
    exact ⟨i, hi⟩
  · rw [step_of_running hr hf]
    simp only [stepRunning, hw, hdec]
    rfl

/-- Settles O52: every effect but a return, a call, a jump and a skip leaves pc alone. -/
theorem otherInstructionsFallThrough : Obligations.OtherInstructionsFallThrough := by
  intro i s t h hne
  cases exec_effect h with
  | pop hi _ _ _ | call _ hi _ =>
    subst hi
    trivial
  | jump hi _ _ => obtain ⟨_, rfl⟩ | ⟨_, rfl⟩ := hi <;> trivial
  | skip hi _ _ => cases i <;> cases hi <;> trivial
  | _ => exact absurd rfl hne

end Sys2Proof.Machine
end

section
/-! PROOFS. The display family (spec/40_display.md). A drawing is described by the cells that it covers:
`Flips P a b` says that the cells of P were flipped and that the collision is a lit cell among them. Two
drawings that share no cell compose (`Flips.trans`); so a pixel, a row and a sprite are described by the
same relation, since 8 columns are fewer than 64 and a sprite's rows fewer than 32. -/

namespace Sys2Proof.Machine

/-! ### Cells of the framebuffer -/

/-- A cell's column counts modulo 64 (R27). -/
@[simp] theorem Framebuffer.cell_mod_col (fb : Framebuffer) (x y : Nat) :
    fb.cell (x % 64) y = fb.cell x y := by
  simp only [Framebuffer.cell, Nat.mod_mod]

/-- A cell's row counts modulo 32 (R27). -/
@[simp] theorem Framebuffer.cell_mod_row (fb : Framebuffer) (x y : Nat) :
    fb.cell x (y % 32) = fb.cell x y := by
  simp only [Framebuffer.cell, Nat.mod_mod]

/-- Coordinates that wrap to the same ones name the same cell (R72). -/
theorem Framebuffer.cell_congr (fb : Framebuffer) {x y x' y' : Nat} (hx : x % 64 = x' % 64)
    (hy : y % 32 = y' % 32) : fb.cell x y = fb.cell x' y' := by
  rw [← fb.cell_mod_col x, ← fb.cell_mod_row, hx, hy, fb.cell_mod_row, fb.cell_mod_col]

/-- A framebuffer is its cells. -/
theorem Framebuffer.ext_cell {fb fb' : Framebuffer} (h : ∀ x y, fb.cell x y = fb'.cell x y) :
    fb = fb' := by
  refine Vector.ext fun y hy => BitVec.eq_of_getLsbD_eq fun x hx => ?_
  simpa only [Framebuffer.cell, Nat.mod_eq_of_lt hx, Nat.mod_eq_of_lt hy] using h x y

/-- `Clear()` leaves no cell lit (R73). -/
@[simp] theorem cell_clearedFb (x y : Nat) : Framebuffer.cell clearedFb x y = false := by
  simp [Framebuffer.cell, clearedFb]

/-- Bit `k` of a pixel's row is the pixel in its wrapped column and clear elsewhere (R72). -/
theorem getLsbD_pixelMask (x : Nat) (b : Bool) {k : Nat} (hk : k < 64) :
    (pixelMask x b).getLsbD k = (b && decide (k = x % 64)) := by
  cases b <;> simp [pixelMask, hk]

/-- `DrawPixel` XORs the bit into the cell that its coordinates wrap to, and into no other (R72). -/
theorem cell_drawPixel (fb : Framebuffer) (px py : Nat) (b : Bool) (cx cy : Nat) :
    (drawPixel fb px py b).1.cell cx cy =
      (fb.cell cx cy ^^ (b && decide (cx % 64 = px % 64 ∧ cy % 32 = py % 32))) := by
  have hx : cx % 64 < 64 := Nat.mod_lt _ (by decide)
  by_cases hrow : cy % 32 = py % 32
  · simp [drawPixel, Framebuffer.cell, hrow, getLsbD_pixelMask _ _ hx]
  · simp [drawPixel, Framebuffer.cell, hrow, Vector.getElem_set_ne, Ne.symm hrow]

/-- Settles O34, as `cell_drawPixel` at coordinates in range. -/
theorem drawPixelXorsOneCell : Obligations.DrawPixelXorsOneCell := by
  intro fb px py b
  constructor
  · intro cx cy hx hy
    rw [cell_drawPixel, Nat.mod_eq_of_lt hx, Nat.mod_eq_of_lt hy]
    split <;> simp [*]
  · simp [drawPixel]

/-- Settles O35. -/
theorem clearScreen : Obligations.ClearScreen :=
  ⟨encodedAs_of_word rfl, fun s => ⟨s.setFb clearedFb, rfl, fun x y _ _ => cell_clearedFb x y, rfl⟩⟩

/-- Settles O38: cell number `y * 64 + x` has row y and column x. -/
theorem renderReadsTheFramebuffer : Obligations.RenderReadsTheFramebuffer := by
  refine fun s => ⟨s.fb.cells, rfl, by simp [Framebuffer.cells], fun x y hx hy => ?_⟩
  have hk : y * 64 + x < 2048 := by omega
  have hcol : (y * 64 + x) % 64 = x := by omega
  have hrow : (y * 64 + x) / 64 = y := by omega
  rw [Framebuffer.cells, List.getElem?_map, List.getElem?_range hk, Option.map_some, hcol, hrow]

/-! ### What a drawing covers -/

/-- The cells under a pixel: the one that its coordinates wrap to, when its bit is set (R72). -/
def PixelCovers (px py : Nat) (b : Bool) (cx cy : Nat) : Prop :=
  b = true ∧ px % 64 = cx % 64 ∧ py % 32 = cy % 32

/-- The cells under the columns `col`, ..., `col + n - 1` of a sprite's row (R77). -/
def ColumnsCover (row : Byte) (x0 y col n : Nat) (cx cy : Nat) : Prop :=
  ∃ c, col ≤ c ∧ c < col + n ∧ PixelCovers (x0 + c) y (spriteBit row c) cx cy

/-- The cells under a sprite, each row 8 columns wide (R77). -/
def SpriteCovers (x0 y0 : Nat) (rows : List Byte) (cx cy : Nat) : Prop :=
  ∃ r, ∃ row ∈ rows[r]?, ColumnsCover row x0 (y0 + r) 0 8 cx cy

/-- From `a` to `b`, framebuffers with the collision so far, exactly the cells of `P` were flipped, and the
collision is a lit cell among them, ORed into the earlier one (R72, R77, C3). -/
structure Flips (P : Nat → Nat → Prop) (a b : Framebuffer × Bool) : Prop where
  cell_ne_iff : ∀ cx cy, b.1.cell cx cy ≠ a.1.cell cx cy ↔ P cx cy
  collided_iff : b.2 = true ↔ a.2 = true ∨ ∃ cx cy, P cx cy ∧ a.1.cell cx cy = true

namespace Flips

variable {P Q R : Nat → Nat → Prop} {a b c : Framebuffer × Bool}

/-- A drawing that covers no cell changes nothing. -/
theorem of_empty (a : Framebuffer × Bool) (h : ∀ cx cy, ¬ P cx cy) : Flips P a a :=
  ⟨fun cx cy => by simp [h cx cy], by simp [h]⟩

/-- A cell that a drawing does not cover keeps its value. -/
theorem cell_eq_of_not (h : Flips P a b) {cx cy : Nat} (hP : ¬ P cx cy) :
    b.1.cell cx cy = a.1.cell cx cy :=
  not_not.mp (mt (h.cell_ne_iff cx cy).mp hP)

/-- Two drawings that share no cell make one: the second finds its cells as they were before the first. -/
theorem trans (hab : Flips P a b) (hbc : Flips Q b c) (hdisj : ∀ cx cy, P cx cy → ¬ Q cx cy)
    (hR : ∀ cx cy, R cx cy ↔ P cx cy ∨ Q cx cy) : Flips R a c where
  cell_ne_iff cx cy := by
    rw [hR]
    by_cases hP : P cx cy
    · simp [hP, hbc.cell_eq_of_not (hdisj cx cy hP), (hab.cell_ne_iff cx cy).mpr hP]
    · simp [hP, ← hbc.cell_ne_iff, hab.cell_eq_of_not hP]
  collided_iff := by
    have hlit : (∃ cx cy, Q cx cy ∧ b.1.cell cx cy = true) ↔
        ∃ cx cy, Q cx cy ∧ a.1.cell cx cy = true :=
      exists₂_congr fun cx cy => and_congr_right fun hQ => by
        rw [hab.cell_eq_of_not fun hP => hdisj cx cy hP hQ]
    simp only [hbc.collided_iff, hab.collided_iff, hlit, hR, or_and_right, exists_or, or_assoc]

/-- After a drawing a covered cell is lit exactly when it was dark. -/
theorem cell_eq_true_iff (h : Flips P a b) {cx cy : Nat} (hP : P cx cy) :
    b.1.cell cx cy = true ↔ a.1.cell cx cy = false := by
  have hne := (h.cell_ne_iff cx cy).mpr hP
  cases ha : a.1.cell cx cy <;> simpa [ha] using hne

/-- Drawing over the same cells again restores the framebuffer (R79). -/
theorem fb_eq_of_twice {a' : Framebuffer × Bool} (h : Flips P a b) (h' : Flips P a' c)
    (heq : a'.1 = b.1) : c.1 = a.1 := by
  refine Framebuffer.ext_cell fun cx cy => ?_
  have hiff := (h'.cell_ne_iff cx cy).trans (h.cell_ne_iff cx cy).symm
  rw [heq] at hiff
  have hbits : ∀ p q r : Bool, (p ≠ q ↔ q ≠ r) → p = r := by decide
  exact hbits _ _ _ hiff

end Flips

/-- One pixel (R72). -/
theorem drawPixel_flips (acc : Framebuffer × Bool) (px py : Nat) (b : Bool) :
    Flips (PixelCovers px py b) acc
      ((drawPixel acc.1 px py b).1, acc.2 || (drawPixel acc.1 px py b).2) where
  cell_ne_iff cx cy := by
    rw [cell_drawPixel, PixelCovers, eq_comm (a := px % 64), eq_comm (a := py % 32)]
    cases acc.1.cell cx cy <;> simp
  collided_iff := by
    have hcell : (∃ cx cy, PixelCovers px py b cx cy ∧ acc.1.cell cx cy = true) ↔
        acc.1.cell px py = true ∧ b = true := by
      constructor
      · rintro ⟨cx, cy, ⟨hb, hx, hy⟩, hlit⟩
        exact ⟨(acc.1.cell_congr hx hy).trans hlit, hb⟩
      · rintro ⟨hlit, hb⟩
        exact ⟨px, py, ⟨hb, rfl, rfl⟩, hlit⟩
    rw [hcell, Bool.or_eq_true, drawPixel, Bool.and_eq_true]

/-- The first column and the others (R77). -/
theorem columnsCover_succ {row : Byte} {x0 y col n cx cy : Nat} :
    ColumnsCover row x0 y col (n + 1) cx cy ↔
      PixelCovers (x0 + col) y (spriteBit row col) cx cy ∨ ColumnsCover row x0 y (col + 1) n cx cy := by
  constructor
  · rintro ⟨c, hle, hlt, hc⟩
    obtain rfl | hlt' := Nat.eq_or_lt_of_le hle
    · exact .inl hc
    · exact .inr ⟨c, hlt', by omega, hc⟩
  · rintro (hc | ⟨c, hle, hlt, hc⟩)
    · exact ⟨col, le_rfl, by omega, hc⟩
    · exact ⟨c, by omega, by omega, hc⟩

/-- Columns of a row, no two of which wrap to the same one (R77). -/
theorem drawColumns_flips (row : Byte) (x0 y col n : Nat) (hn : n ≤ 64) (acc : Framebuffer × Bool) :
    Flips (ColumnsCover row x0 y col n) acc (drawColumns row x0 y col n acc) := by
  induction n generalizing col acc with
  | zero => exact .of_empty acc fun cx cy ⟨c, hle, hlt, _⟩ => by omega
  | succ n ih =>
    refine (drawPixel_flips acc (x0 + col) y (spriteBit row col)).trans (ih (col + 1) (by omega) _) ?_
      fun _ _ => columnsCover_succ
    rintro cx cy ⟨-, hcol, -⟩ ⟨c, hle, hlt, -, hc, -⟩
    omega

/-- The first row and the others (R77). -/
theorem spriteCovers_cons {x0 y0 : Nat} {row : Byte} {rows : List Byte} {cx cy : Nat} :
    SpriteCovers x0 y0 (row :: rows) cx cy ↔
      ColumnsCover row x0 y0 0 8 cx cy ∨ SpriteCovers x0 (y0 + 1) rows cx cy := by
  rw [SpriteCovers, ← Nat.or_exists_add_one]
  simp only [SpriteCovers, List.getElem?_cons_zero, List.getElem?_cons_succ,
    Option.mem_some, exists_eq_left', Nat.add_zero, Nat.add_assoc, Nat.add_comm 1]

/-- Rows of a sprite, no two of which wrap to the same one (R77). -/
theorem drawRows_flips (x0 y0 : Nat) (rows : List Byte) (hlen : rows.length ≤ 32)
    (acc : Framebuffer × Bool) : Flips (SpriteCovers x0 y0 rows) acc (drawRows x0 y0 rows acc) := by
  induction rows generalizing y0 acc with
  | nil => exact .of_empty acc fun cx cy => by simp [SpriteCovers]
  | cons row rows ih =>
    simp only [List.length_cons] at hlen
    refine (drawColumns_flips row x0 y0 0 8 (by decide) acc).trans (ih (y0 + 1) (by omega) _) ?_
      fun _ _ => spriteCovers_cons
    rintro cx cy ⟨_, -, -, -, -, hy⟩ ⟨r, _, hr, _, -, -, -, -, hy'⟩
    have hlt : r < rows.length := (List.getElem?_eq_some_iff.mp hr).1
    omega

/-! ### Dxyn -/

/-- The cells under the sprite that Dxyn reads in this state (R77). -/
def State.spriteCovers (s : State) (x y n : Nibble) : Nat → Nat → Prop :=
  SpriteCovers (s.getV x).toNat (s.getV y).toNat (s.mem.readBlock s.i.toNat n.toNat)

/-- What Dxyn draws in this state, with its collision (R77). -/
def State.drawn (s : State) (x y n : Nibble) : Framebuffer × Bool :=
  drawSprite s.fb (s.getV x).toNat (s.getV y).toNat (s.mem.readBlock s.i.toNat n.toNat)

/-- Dxyn flips the cells under its sprite: it has at most 15 rows (R60). -/
theorem drawn_flips (s : State) (x y n : Nibble) :
    Flips (s.spriteCovers x y n) (s.fb, false) (s.drawn x y n) := by
  have hn := Laws.nibble_le n
  exact drawRows_flips _ _ _ (by rw [Memory.readBlock_length]; omega) _

/-- Dxyn whose reads are all in range completes with its drawing and, last, the flag (R77, D16). -/
theorem exec_drw_eq (x y : Nibble) {n : Nibble} {s : State}
    (h : ∀ row, row < n.toNat → s.i.toNat + row ≤ 0xFFF) :
    exec (.drw x y n) s =
      .next ((s.setFb (s.drawn x y n).1).setV vf (collisionFlag (s.drawn x y n).2)) := by
  have hc : firstFailure checkRead s.i.toNat n.toNat = none :=
    firstFailure_eq_none.mpr fun k hk => checkRead_eq_none.mpr (h k hk)
  simp only [exec, execDrw, hc, State.drawn]

/-- The first read of Dxyn that fails is at I, or else at the first address above memory (R45, D8). -/
theorem firstFailure_checkRead_eq_some {base n : Nat} (hn : 0 < n) (h : 0xFFF < base + (n - 1)) :
    firstFailure checkRead base n =
      some (.readOutOfRange, if 0xFFF < base then base else 0x1000) := by
  rw [firstFailure_eq_some]
  split
  · exact ⟨0, hn, rfl, checkRead_eq_some.mpr ⟨rfl, ‹_›⟩, fun j hj => absurd hj (Nat.not_lt_zero j)⟩
  · exact ⟨0x1000 - base, by omega, by omega, rfl, fun j hj => checkRead_eq_none.mpr (by omega)⟩

/-- The flag is 1 for a collision (R16, R77). -/
theorem collisionFlag_eq_one_iff {c : Bool} : collisionFlag c = 1 ↔ c = true := by
  revert c; decide

/-- The flag is 1 or 0 (R16). -/
theorem collisionFlag_eq_one_or_zero (c : Bool) : collisionFlag c = 1 ∨ collisionFlag c = 0 := by
  revert c; decide

/-- Row `r` of a sprite is the byte at `base + r` (R74). -/
theorem Memory.mem_readBlock_getElem? {m : Memory} {base n r : Nat} {b : Byte} :
    b ∈ (m.readBlock base n)[r]? ↔ r < n ∧ m.get (base + r) = b := by
  rw [Option.mem_def, List.getElem?_eq_some_iff]
  simp only [Memory.readBlock_length, Memory.readBlock_getElem, exists_prop]

/-- The cells under the sprite by its rows and columns, bit 7 leftmost (R74, R77). -/
theorem spriteCovers_iff {s : State} {x y n : Nibble} {cx cy : Nat} :
    s.spriteCovers x y n cx cy ↔
      ∃ row col, row < n.toNat ∧ col < 8 ∧ ((s.getV x).toNat + col) % 64 = cx % 64 ∧
        ((s.getV y).toNat + row) % 32 = cy % 32 ∧
        (s.mem.get (s.i.toNat + row)).getLsbD (7 - col) = true := by
  constructor
  · rintro ⟨row, b, hb, col, -, hcol, hbit, hx, hy⟩
    obtain ⟨hrow, rfl⟩ := Memory.mem_readBlock_getElem?.mp hb
    exact ⟨row, col, hrow, by omega, hx, hy, hbit⟩
  · rintro ⟨row, col, hrow, hcol, hx, hy, hbit⟩
    exact ⟨row, _, Memory.mem_readBlock_getElem?.mpr ⟨hrow, rfl⟩, col, Nat.zero_le _,
      by omega, hbit, hx, hy⟩

/-- A cell with some value under the sprite is a set bit over a cell with that value (R77). -/
theorem exists_spriteCovers_iff {s : State} {x y n : Nibble} (fb : Framebuffer) (lit : Bool) :
    (∃ cx cy, s.spriteCovers x y n cx cy ∧ fb.cell cx cy = lit) ↔
      ∃ row col, row < n.toNat ∧ col < 8 ∧ (s.mem.get (s.i.toNat + row)).getLsbD (7 - col) = true ∧
        fb.cell (((s.getV x).toNat + col) % 64) (((s.getV y).toNat + row) % 32) = lit := by
  simp only [Framebuffer.cell_mod_col, Framebuffer.cell_mod_row, spriteCovers_iff]
  constructor
  · rintro ⟨cx, cy, ⟨row, col, hrow, hcol, hx, hy, hbit⟩, hlit⟩
    exact ⟨row, col, hrow, hcol, hbit, (fb.cell_congr hx hy).trans hlit⟩
  · rintro ⟨row, col, hrow, hcol, hbit, hlit⟩
    exact ⟨_, _, ⟨row, col, hrow, hcol, rfl, rfl, hbit⟩, hlit⟩

/-- Settles O36: what `drawn_flips` says of the cells and of the collision, and the frame. -/
theorem drawSpriteFlipsTheSpriteCells : Obligations.DrawSpriteFlipsTheSpriteCells := by
  refine ⟨encodedAs_of_op fun w hop => ?_, fun x y n s => ⟨fun hread => ?_, fun hn hread => ?_⟩⟩
  · have hop' : fieldOp w = 0xD#4 := hop.trans (by decide)
    simp only [decode, hop']
  · have hflips := drawn_flips s x y n
    refine ⟨_, exec_drw_eq x y hread, fun cx cy hx hy => ?_, ?_, ?_, fun r hr => ?_, rfl⟩
    · simpa only [State.setV_fb, State.setFb_fb, Nat.mod_eq_of_lt hx, Nat.mod_eq_of_lt hy] using
        (hflips.cell_ne_iff cx cy).trans spriteCovers_iff
    · simpa only [State.getV_setV_same] using collisionFlag_eq_one_or_zero _
    · rw [State.getV_setV_same, collisionFlag_eq_one_iff, hflips.collided_iff,
        exists_spriteCovers_iff s.fb true]
      simp only [Bool.false_eq_true, false_or]
    · rw [State.getV_setV_other _ _ hr, State.setFb_getV]
  · refine ⟨_, ?_, rfl⟩
    simp only [exec, execDrw, firstFailure_checkRead_eq_some hn hread]
    rfl

/-- Settles O37: both drawings flip the same cells, and a covered cell is lit for the second one exactly when
it was dark for the first. -/
theorem drawingTwiceRestoresTheFramebuffer : Obligations.DrawingTwiceRestoresTheFramebuffer := by
  intro x y n s t u r hread hs hfb hmem hi hx hy hu
  rw [exec_drw_eq x y hread] at hs
  rw [exec_drw_eq x y (hi ▸ hread)] at hu
  obtain rfl := Host.Outcome.next.inj hs
  obtain rfl := Host.Outcome.next.inj hu
  have hcovers : u.spriteCovers x y n = s.spriteCovers x y n := by
    simp only [State.spriteCovers, hmem, hi, hx, hy]
  have hfirst := drawn_flips s x y n
  have hsecond : Flips (s.spriteCovers x y n) (u.fb, false) (u.drawn x y n) :=
    hcovers ▸ drawn_flips u x y n
  refine ⟨hfirst.fb_eq_of_twice hsecond hfb, ?_⟩
  have hlit : (∃ cx cy, s.spriteCovers x y n cx cy ∧ u.fb.cell cx cy = true) ↔
      ∃ cx cy, s.spriteCovers x y n cx cy ∧ s.fb.cell cx cy = false :=
    exists₂_congr fun cx cy => and_congr_right fun hP => by
      rw [hfb]
      exact hfirst.cell_eq_true_iff hP
  rw [State.getV_setV_same, collisionFlag_eq_one_iff, hsecond.collided_iff,
    ← exists_spriteCovers_iff s.fb false, ← hlit]
  simp only [Bool.false_eq_true, false_or]

end Sys2Proof.Machine
end

section
/-! PROOFS. The control-flow family (spec/41_flow.md): the jumps, the conditional skips, and a return over
the stack that a call left. -/

namespace Sys2Proof.Machine

/-! ### Encoding -/

/-- A word decodes to an instruction exactly when it is the instruction's word (R61). -/
theorem decode_eq_some_iff {w : Word} {i : Instr} : decode w = some i ↔ encode i = w :=
  ⟨encode_of_decode, fun h => h ▸ decode_encode i⟩

/-! ### Call and return -/

/-- A call that raises no fault pushed the address after it (R83). -/
theorem execCall_stack {nnn : Addr12} {s t : State} (h : exec (.call nnn) s = .next t)
    (hf : t.fault = none) : t.stack = s.stack ++ [s.pc] := by
  obtain ⟨-, rfl⟩ | ⟨-, rfl⟩ := execCall_cases h
  · simp at hf
  · rfl

/-- Settles O26: the return pops the entry that the call pushed. -/
theorem returnUndoesCall : Obligations.ReturnUndoesCall := by
  intro nnn s t u hcall _ hf hu
  obtain ⟨-, hpop, -⟩ := returnPopsTheStack
  exact ⟨_, hpop u s.stack s.pc (hu.trans (execCall_stack hcall hf)), rfl, rfl⟩

/-! ### Jumps -/

/-- The target of Bnnn is not reduced: the largest sum fits pc (R88). -/
theorem offsetTarget_toNat (nnn : Addr12) (b : Byte) :
    (offsetTarget nnn b).toNat = nnn.toNat + b.toNat := by
  have hn := Laws.addr12_le nnn
  have hb := Laws.byte_le b
  simp only [offsetTarget, BitVec.toNat_ofNat]
  omega

/-- Settles O22. -/
theorem jumpsSetPc : Obligations.JumpsSetPc :=
  ⟨encodedAs_of_op fun _ ho => decode_eq_some_iff.mpr (encodeNNN_of_op ho),
    encodedAs_of_op fun _ ho => decode_eq_some_iff.mpr (encodeNNN_of_op ho),
    fun nnn s => ⟨⟨s.setPc (addressOf nnn), rfl, addressOf_toNat nnn, rfl⟩,
      ⟨s.setPc (offsetTarget nnn (s.getV 0)), rfl, offsetTarget_toNat nnn _, rfl⟩⟩⟩

/-! ### Skips -/

/-- An instruction that ends in `skipIf c` adds 2 to pc, modulo 65536, exactly when the comparison that `c`
decides holds (R84-R87). -/
theorem exec_skips_iff {i : Instr} {s : State} {c : Bool} {p : Prop} [Decidable p]
    (h : exec i s = .next (s.skipIf c)) (hc : c = true ↔ p) :
    ∃ t, exec i s = .next t ∧ ChangesOnlyPc s t ∧
      t.pc.toNat = (if p then s.pc.toNat + 2 else s.pc.toNat) % 65536 := by
  refine ⟨s.skipIf c, h, rfl, ?_⟩
  simp only [State.skipIf_pc, hc]
  split
  · rfl
  · exact (Nat.mod_eq_of_lt s.pc.isLt).symm

/-- Settles O23: each of the four compares with `==` or `!=`. -/
theorem skipsAddTwoWhenTaken : Obligations.SkipsAddTwoWhenTaken :=
  ⟨encodedAs_of_op fun _ ho => decode_eq_some_iff.mpr (encodeXKK_of_op ho),
    encodedAs_of_op fun _ ho => decode_eq_some_iff.mpr (encodeXKK_of_op ho),
    encodedAs_of_op_n fun _ ho hn => decode_eq_some_iff.mpr (encodeXYN_of_op_n ho hn),
    encodedAs_of_op_n fun _ ho hn => decode_eq_some_iff.mpr (encodeXYN_of_op_n ho hn),
    fun _ _ _ _ => ⟨exec_skips_iff rfl beq_iff_eq, exec_skips_iff rfl bne_iff_ne,
      exec_skips_iff rfl beq_iff_eq, exec_skips_iff rfl bne_iff_ne⟩⟩

end Sys2Proof.Machine
end

section
/-! PROOFS. The register and ALU family (spec/42_alu.md). The instructions that write one register, those
that write VF as the flag and then the destination (D2), and the masked random byte. -/

namespace Sys2Proof.Machine

/-! ### Encoding -/

/-- A row that fixes the top digit and has operands x and kk (R62): the encoder's arm for it. -/
theorem encodedAs_of_encodeXKK {b : Word} {f : Word → Instr}
    (hf : ∀ w, encode (f w) = encodeXKK (fieldOp b) (fieldX w) (fieldKK w)) : EncodedAs b 0xF000 f :=
  encodedAs_of_op fun w ho => decode_eq_some_iff.mpr ((hf w).trans (encodeXKK_of_op ho))

/-- A row that fixes the top and the bottom digit and has operands x and y (R62). -/
theorem encodedAs_of_encodeXYN {b : Word} {f : Word → Instr}
    (hf : ∀ w, encode (f w) = encodeXYN (fieldOp b) (fieldX w) (fieldY w) (fieldN b)) :
    EncodedAs b 0xF00F f :=
  encodedAs_of_op_n fun w ho hn => decode_eq_some_iff.mpr ((hf w).trans (encodeXYN_of_op_n ho hn))

/-! ### What writing registers changes -/

theorem ChangesOnlyV.refl (rs : List Nibble) (s : State) : ChangesOnlyV rs s s :=
  ⟨fun _ _ => rfl, rfl⟩

/-- One more write to a listed register. -/
theorem ChangesOnlyV.setV {rs : List Nibble} {s t : State} (h : ChangesOnlyV rs s t) {r : Nibble}
    (hr : r ∈ rs) (b : Byte) : ChangesOnlyV rs s (t.setV r b) := by
  obtain ⟨hregs, hrest⟩ := h
  refine ⟨fun q hq => ?_, congrArg (State.setV · r b) hrest⟩
  have hqr : q ≠ r := fun e => hq (e ▸ hr)
  exact (State.getV_setV_other t b hqr).trans (hregs q hq)

/-- An instruction that writes one register (R90-R95). -/
theorem exec_load {i : Instr} {s : State} {x : Nibble} {b : Byte} (h : exec i s = .next (s.setV x b)) :
    ∃ t, exec i s = .next t ∧ t.getV x = b ∧ ChangesOnlyV [x] s t :=
  ⟨_, h, State.getV_setV_same s x b, (ChangesOnlyV.refl [x] s).setV (by simp) b⟩

/-- The flag and then the destination (R96-R100). -/
theorem changesOnlyV_flag_load (s : State) (x : Nibble) (flag b : Byte) :
    ChangesOnlyV [x, vf] s ((s.setV vf flag).setV x b) :=
  ((ChangesOnlyV.refl [x, vf] s).setV (by simp) flag).setV (by simp) b

/-- The flag stays in VF unless VF is the destination (D2). -/
theorem getV_vf_flag_load (s : State) {x : Nibble} (hx : x ≠ vf) (flag b : Byte) :
    ((s.setV vf flag).setV x b).getV vf = flag := by
  rw [State.getV_setV_other _ _ hx.symm, State.getV_setV_same]

/-- An instruction that writes VF and then combines V[x] and V[y] as they stand after that write (R12, D2):
an operand that is VF is read as the flag, and a destination that is VF loses it. -/
theorem exec_flag_then_load {i : Instr} {s : State} {x y : Nibble} {flag : Byte}
    (g : Byte → Byte → Byte)
    (h : exec i s = .next ((s.setV vf flag).setV x
      (g ((s.setV vf flag).getV x) ((s.setV vf flag).getV y)))) :
    ∃ t, exec i s = .next t ∧ ChangesOnlyV [x, vf] s t ∧
      (x ≠ vf → t.getV vf = flag) ∧
      (x ≠ vf → y ≠ vf → t.getV x = g (s.getV x) (s.getV y)) ∧
      (x ≠ vf → y = vf → t.getV x = g (s.getV x) (t.getV vf)) ∧
      (x = vf → y ≠ vf → t.getV vf = g flag (s.getV y)) ∧
      (x = vf → y = vf → t.getV vf = g flag flag) := by
  refine ⟨_, h, changesOnlyV_flag_load _ _ _ _, fun hx => getV_vf_flag_load s hx _ _, ?_, ?_, ?_, ?_⟩
  · intro hx hy
    rw [State.getV_setV_same, State.getV_setV_other _ _ hx, State.getV_setV_other _ _ hy]
  · rintro hx rfl
    rw [getV_vf_flag_load s hx, State.getV_setV_same, State.getV_setV_other _ _ hx,
      State.getV_setV_same]
  · rintro rfl hy
    rw [State.getV_setV_same, State.getV_setV_same, State.getV_setV_other _ _ hy]
  · rintro rfl rfl
    rw [State.getV_setV_same, State.getV_setV_same]

/-! ### Byte arithmetic and flags -/

/-- The difference modulo 256, with the 256 added first (R97, R99). -/
theorem byte_sub_toNat (a b : Byte) : (a - b).toNat = (256 + a.toNat - b.toNat) % 256 := by
  have hb := Laws.byte_le b
  rw [BitVec.toNat_sub]
  omega

theorem carryFlag_eq (n : Nat) : carryFlag n = if n > 255 then 1 else 0 := by
  simp only [carryFlag, flagByte, decide_eq_true_eq]

theorem notBorrowFlag_eq (a b : Byte) : notBorrowFlag a b = if a.toNat > b.toNat then 1 else 0 := by
  simp only [notBorrowFlag, flagByte, decide_eq_true_eq]

theorem notBorrowFlag_toNat (a b : Byte) :
    (notBorrowFlag a b).toNat = if a.toNat > b.toNat then 1 else 0 := by
  rw [notBorrowFlag_eq]
  split <;> rfl

theorem lowBitFlag_toNat (b : Byte) : (lowBitFlag b).toNat = b.toNat % 2 := by
  rw [lowBitFlag, BitVec.toNat_and]
  exact Nat.and_one_is_mod _

theorem highBitFlag_toNat (b : Byte) : (highBitFlag b).toNat = b.toNat / 128 := by
  have hb := Laws.byte_le b
  have hmod : (highBitFlag b).toNat = b.toNat / 128 % 2 := by
    rw [highBitFlag, BitVec.toNat_and, BitVec.toNat_ushiftRight, Nat.shiftRight_eq_div_pow]
    exact Nat.and_one_is_mod _
  omega

theorem byte_shr_one_toNat (b : Byte) : (b >>> 1).toNat = b.toNat / 2 := by
  rw [BitVec.toNat_ushiftRight, Nat.shiftRight_eq_div_pow, Nat.pow_one]

theorem byte_shl_one_toNat (b : Byte) : (b <<< 1).toNat = 2 * b.toNat % 256 := by
  rw [BitVec.toNat_shiftLeft, Nat.shiftLeft_eq, Nat.pow_one, Nat.mul_comm]

/-- 8Fy6 shifts the flag out (R98). -/
theorem lowBitFlag_shr_one (b : Byte) : lowBitFlag b >>> 1 = 0 := by
  apply BitVec.eq_of_toNat_eq
  rw [byte_shr_one_toNat, lowBitFlag_toNat]
  exact Nat.div_eq_of_lt (Nat.mod_lt _ (by decide))

/-- 8FyE doubles the flag (R100). -/
theorem highBitFlag_shl_one (b : Byte) : highBitFlag b <<< 1 = if 128 ≤ b.toNat then 2 else 0 := by
  have hb := Laws.byte_le b
  apply BitVec.eq_of_toNat_eq
  rw [byte_shl_one_toNat, highBitFlag_toNat]
  split
  · rw [show b.toNat / 128 = 1 by omega]; rfl
  · rw [show b.toNat / 128 = 0 by omega]; rfl

/-! ### One register written -/

/-- Settles O15: each of the four writes one register. -/
theorem loadsBitwiseAndXor : Obligations.LoadsBitwiseAndXor :=
  ⟨encodedAs_of_encodeXKK fun _ => rfl, encodedAs_of_encodeXYN fun _ => rfl,
    encodedAs_of_encodeXYN fun _ => rfl, encodedAs_of_encodeXYN fun _ => rfl,
    fun _ _ _ _ => ⟨exec_load rfl, exec_load rfl, exec_load rfl, exec_load rfl⟩⟩

/-- 7xkk adds modulo 256 (R91). -/
theorem exec_addImm (x : Nibble) (kk : Byte) (s : State) :
    ∃ t, exec (.addImm x kk) s = .next t ∧
      (t.getV x).toNat = ((s.getV x).toNat + kk.toNat) % 256 ∧ ChangesOnlyV [x] s t := by
  obtain ⟨t, hexec, hval, hframe⟩ := exec_load (i := .addImm x kk) (s := s) rfl
  exact ⟨t, hexec, by rw [hval, BitVec.toNat_add], hframe⟩

/-- Settles O16: the law for 6xkk then 7xkk is two writes to one register. -/
theorem addImmediateAndOr : Obligations.AddImmediateAndOr := by
  refine ⟨encodedAs_of_encodeXKK fun _ => rfl, encodedAs_of_encodeXYN fun _ => rfl,
    fun x y kk kk' s => ⟨exec_addImm x kk s, exec_load rfl, s.setV x kk, ?_⟩⟩
  refine ⟨(s.setV x kk).setV x ((s.setV x kk).getV x + kk'), rfl, rfl, ?_,
    ((ChangesOnlyV.refl [x] s).setV (by simp) _).setV (by simp) _⟩
  rw [State.getV_setV_same, State.getV_setV_same, BitVec.toNat_add]

/-! ### The flag and then a register written -/

/-- Settles O17: the sum is latched before either write, so V[x] holds it for every x. -/
theorem addRegistersWithCarry : Obligations.AddRegistersWithCarry := by
  refine ⟨encodedAs_of_encodeXYN fun _ => rfl,
    fun x y s => ⟨_, rfl, changesOnlyV_flag_load _ _ _ _, ?_, fun hx => ?_⟩⟩
  · rw [State.getV_setV_same, BitVec.toNat_ofNat, exactSum]
  · rw [getV_vf_flag_load s hx, carryFlag_eq, exactSum]

/-- Settles O18: the difference of the operands as they stand after the flag is written. -/
theorem subtractWithNotBorrow : Obligations.SubtractWithNotBorrow := by
  refine ⟨encodedAs_of_encodeXYN fun _ => rfl, fun x y s => ?_⟩
  obtain ⟨t, hexec, hframe, hflag, hneither, hy, hx, hboth⟩ :=
    exec_flag_then_load (i := .sub x y) (s := s) (x := x) (y := y) (fun a b => a - b) rfl
  refine ⟨t, hexec, hframe, fun hxf => (hflag hxf).trans (notBorrowFlag_eq _ _),
    fun hxf hyf => ?_, fun hxf hyf => ?_, fun hxf hyf => ?_, fun hxf hyf => ?_⟩
  · rw [hneither hxf hyf, byte_sub_toNat]
  · rw [hy hxf hyf, byte_sub_toNat]
  · rw [hx hxf hyf, byte_sub_toNat, notBorrowFlag_toNat]
  · exact (hboth hxf hyf).trans (BitVec.sub_self _)

/-- Settles O19: as 8xy5 with the difference taken the other way round. -/
theorem subtractReversedWithNotBorrow : Obligations.SubtractReversedWithNotBorrow := by
  refine ⟨encodedAs_of_encodeXYN fun _ => rfl, fun x y s => ?_⟩
  obtain ⟨t, hexec, hframe, hflag, hneither, hy, hx, hboth⟩ :=
    exec_flag_then_load (i := .subn x y) (s := s) (x := x) (y := y) (fun a b => b - a) rfl
  refine ⟨t, hexec, hframe, fun hxf => (hflag hxf).trans (notBorrowFlag_eq _ _),
    fun hxf hyf => ?_, fun hxf hyf => ?_, fun hxf hyf => ?_, fun hxf hyf => ?_⟩
  · rw [hneither hxf hyf, byte_sub_toNat]
  · rw [hy hxf hyf, byte_sub_toNat]
  · rw [hx hxf hyf, byte_sub_toNat, notBorrowFlag_toNat]
  · exact (hboth hxf hyf).trans (BitVec.sub_self _)

/-- A shift writes the flag and then shifts V[x] alone, so V[y] plays no part (R98, R100). -/
theorem exec_flag_then_shift {i : Instr} {s : State} {x : Nibble} {flag : Byte} (g : Byte → Byte)
    (h : exec i s = .next ((s.setV vf flag).setV x (g ((s.setV vf flag).getV x)))) :
    ∃ t, exec i s = .next t ∧ ChangesOnlyV [x, vf] s t ∧
      (x ≠ vf → t.getV vf = flag ∧ t.getV x = g (s.getV x)) ∧ (x = vf → t.getV vf = g flag) := by
  obtain ⟨t, hexec, hframe, hflag, hneither, -, -, hboth⟩ :=
    exec_flag_then_load (y := x) (fun a _ => g a) h
  exact ⟨t, hexec, hframe, fun hx => ⟨hflag hx, hneither hx hx⟩, fun hx => hboth hx hx⟩

/-- Settles O20: with x = F it is the flag that is shifted. -/
theorem shiftsPutTheLostBitInVF : Obligations.ShiftsPutTheLostBitInVF := by
  refine ⟨encodedAs_of_encodeXYN fun _ => rfl, encodedAs_of_encodeXYN fun _ => rfl,
    fun x y s => ⟨?_, ?_⟩⟩
  · obtain ⟨t, hexec, hframe, hother, hself⟩ :=
      exec_flag_then_shift (i := .shr x y) (s := s) (x := x) (fun a => a >>> 1) rfl
    refine ⟨t, hexec, hframe, fun hx => ?_, fun hx => (hself hx).trans (lowBitFlag_shr_one _)⟩
    obtain ⟨hflag, hval⟩ := hother hx
    rw [hflag, hval]
    exact ⟨lowBitFlag_toNat _, byte_shr_one_toNat _⟩
  · obtain ⟨t, hexec, hframe, hother, hself⟩ :=
      exec_flag_then_shift (i := .shl x y) (s := s) (x := x) (fun a => a <<< 1) rfl
    refine ⟨t, hexec, hframe, fun hx => ?_, fun hx => (hself hx).trans (highBitFlag_shl_one _)⟩
    obtain ⟨hflag, hval⟩ := hother hx
    rw [hflag, hval]
    exact ⟨highBitFlag_toNat _, byte_shl_one_toNat _⟩

/-! ### The random byte -/

@[simp] theorem State.randomByte_keyAnswers (s : State) :
    s.randomByte.2.inputs.keyAnswers = s.inputs.keyAnswers := by
  unfold State.randomByte; split <;> rfl

/-- A draw takes the oldest lined-up byte (R128, log entry 3). -/
theorem State.randomByte_of_lined_up {s : State} {r : Byte} {rest : List Byte}
    (h : s.inputs.randomBytes = r :: rest) :
    s.randomByte.1 = r ∧ s.randomByte.2.inputs.randomBytes = rest := by
  unfold State.randomByte
  rw [h]
  exact ⟨rfl, rfl⟩

/-- A write after a draw changes nothing besides the registers and the draws (R101). -/
theorem setV_randomByte_frame (s : State) (x : Nibble) (b : Byte) :
    s.randomByte.2.setV x b =
      { s with v := (s.randomByte.2.setV x b).v, inputs := (s.randomByte.2.setV x b).inputs } := by
  calc s.randomByte.2.setV x b
    _ = State.setV { s with inputs := s.randomByte.2.inputs } x b :=
      congrArg (State.setV · x b) (randomByte_frame s)
    _ = _ := by rw [State.setV_v, State.randomByte_v]; rfl

/-- Settles O21: the byte drawn is the r of the statement, whether it was lined up or not. -/
theorem randomByteIsMasked : Obligations.RandomByteIsMasked := by
  refine ⟨encodedAs_of_encodeXKK fun _ => rfl, fun x kk s => ⟨?_, fun r rest h => ?_⟩⟩
  · exact ⟨s.randomByte.1, _, rfl, State.getV_setV_same _ _ _,
      fun q hq => (State.getV_setV_other _ _ hq).trans (State.randomByte_getV s q),
      setV_randomByte_frame _ _ _, State.randomByte_keyAnswers s, State.randomByte_drawCount s⟩
  · obtain ⟨hr, hrest⟩ := State.randomByte_of_lined_up h
    exact ⟨_, rfl, by rw [State.getV_setV_same, hr], hrest⟩

end Sys2Proof.Machine
end

section
/-! PROOFS. The index-register and memory family (spec/43_index_memory.md). A block store is settled by the
first address of its block that may not be written: with none, the store completes and its bytes are read
back; with one, the fault names it. A block load is settled by the first address above 0xFFF. -/

namespace Sys2Proof.Machine

/-! ### Encoding -/

/-- A row that fixes the top digit and the low byte and has operand x (R62): the encoder's arm for it. -/
theorem encodedAs_of_encodeXKK_low {b : Word} {f : Word → Instr}
    (hf : ∀ w, encode (f w) = encodeXKK (fieldOp b) (fieldX w) (fieldKK b)) : EncodedAs b 0xF0FF f :=
  encodedAs_of_op_kk fun w ho hk => decode_eq_some_iff.mpr ((hf w).trans (encodeXKK_of_op_kk ho hk))

/-! ### The index register -/

/-- Fx1E wraps modulo 65536 (R104). -/
theorem indexSum_toNat (i : Word) (b : Byte) : (indexSum i b).toNat = (i.toNat + b.toNat) % 65536 :=
  BitVec.toNat_ofNat _ _

/-- The product of Fx29 is at most 255 * 5, so I holds it whole (R105). -/
theorem glyphAddress_toNat (b : Byte) : (glyphAddress b).toNat = b.toNat * 5 := by
  have hb := Laws.byte_le b
  rw [glyphAddress, BitVec.toNat_ofNat]
  omega

/-- Settles O27: the address field is loaded unscaled. -/
theorem loadIndexImmediate : Obligations.LoadIndexImmediate :=
  ⟨encodedAs_of_op fun _ ho => decode_eq_some_iff.mpr (encodeNNN_of_op ho),
    fun nnn s => ⟨s.setI (addressOf nnn), rfl, addressOf_toNat nnn, rfl⟩⟩

/-- Settles O28: both write I alone. -/
theorem indexArithmetic : Obligations.IndexArithmetic :=
  ⟨encodedAs_of_encodeXKK_low fun _ => rfl, encodedAs_of_encodeXKK_low fun _ => rfl,
    fun x s => ⟨⟨s.setI (indexSum s.i (s.getV x)), rfl, indexSum_toNat _ _, rfl⟩,
      ⟨s.setI (glyphAddress (s.getV x)), rfl, glyphAddress_toNat _, rfl⟩⟩⟩

/-! ### Block stores -/

section BlockStore

variable {s : State} {base : Nat}

/-- The write check of a block passes exactly when a program may write each of its addresses (R44, R45). -/
theorem firstFailure_checkWrite_eq_none {n : Nat} :
    firstFailure (checkWrite s.params.protectLowMemory) base n = none ↔
      ∀ k, k < n → s.mayWrite (base + k) := by
  simp only [firstFailure_eq_none, checkWrite_none_iff_mayWrite]

/-- An address that may not be written is above memory or, below that, protected (R44, R124, D9). -/
theorem checkWrite_of_not_mayWrite {a : Nat} (h : ¬ s.mayWrite a) :
    checkWrite s.params.protectLowMemory a =
      some (if 0xFFF < a then .writeOutOfRange else .writeProtected) := by
  cases hc : checkWrite s.params.protectLowMemory a with
  | none => exact absurd ((checkWrite_none_iff_mayWrite s a).mp hc) h
  | some kind =>
    obtain ⟨rfl, ha⟩ | ⟨rfl, -, ha⟩ := checkWrite_eq_some.mp hc
    · rw [if_pos ha]
    · rw [if_neg (by omega)]

/-- The write check of a block reports the first address that may not be written (R45, D10). -/
theorem firstFailure_checkWrite_eq_some {n k : Nat} (hk : k < n) (hno : ¬ s.mayWrite (base + k))
    (hbefore : ∀ j, j < k → s.mayWrite (base + j)) :
    firstFailure (checkWrite s.params.protectLowMemory) base n =
      some (if 0xFFF < base + k then .writeOutOfRange else .writeProtected, base + k) :=
  firstFailure_eq_some.mpr ⟨k, hk, rfl, checkWrite_of_not_mayWrite hno,
    fun j hj => (checkWrite_none_iff_mayWrite s _).mpr (hbefore j hj)⟩

variable {bs : List Byte}

/-- What memory reads as after storing a block that may be written (R44). -/
theorem get_writeBlock_of_mayWrite (hm : s.mem.wf = true)
    (hw : ∀ k, k < bs.length → s.mayWrite (base + k)) (a : Nat) :
    (s.mem.writeBlock base bs).get a =
      if h : base ≤ a ∧ a - base < bs.length then bs[a - base]'h.2 else s.mem.get a := by
  refine Memory.get_writeBlock hm ?_ a
  cases bs with
  | nil => exact .inl rfl
  | cons b bs => exact .inr (block_fits_of_checkWrite (firstFailure_checkWrite_eq_none.mpr hw))

/-- The stored bytes are read back (R106, R107). -/
theorem get_writeBlock_add (hm : s.mem.wf = true)
    (hw : ∀ k, k < bs.length → s.mayWrite (base + k)) {k : Nat} (hk : k < bs.length) :
    (s.mem.writeBlock base bs).get (base + k) = bs[k] := by
  simp [get_writeBlock_of_mayWrite hm hw, hk]

/-- A block store changes only the bytes of its block (R106, R107). -/
theorem changesOnlyBytes_writeBlock (hm : s.mem.wf = true)
    (hw : ∀ k, k < bs.length → s.mayWrite (base + k)) :
    ChangesOnlyBytes base bs.length s (s.setMem (s.mem.writeBlock base bs)) := by
  refine ⟨fun a ha => ?_, rfl⟩
  rw [State.setMem_mem, get_writeBlock_of_mayWrite hm hw, dif_neg (by omega)]

end BlockStore

/-! ### Fx55 -/

/-- Fx55 over a block that may be written (R107). -/
theorem exec_storeRegs_of_mayWrite {x : Nibble} {s : State}
    (hw : ∀ k, k < x.toNat + 1 → s.mayWrite (s.i.toNat + k)) :
    exec (.storeRegs x) s = .next (s.setMem (s.mem.writeBlock s.i.toNat (s.firstRegs x))) := by
  simp only [exec, execStoreRegs, firstFailure_checkWrite_eq_none.mpr hw]

/-- Register r of a registers-to-memory block (R107). -/
theorem firstRegs_getElem_toNat (s : State) {x r : Nibble} (h : r.toNat < (s.firstRegs x).length) :
    (s.firstRegs x)[r.toNat] = s.getV r :=
  firstRegs_getElem s x r.toNat h

/-- Settles O30: the stored registers are read back from the block, or the first failing write check is
reported. -/
theorem registerBlockStore : Obligations.RegisterBlockStore := by
  refine ⟨encodedAs_of_encodeXKK_low fun _ => rfl,
    fun x s hm => ⟨fun hmay => ?_, fun k hk hno hbefore => ⟨_, ?_, rfl⟩⟩⟩
  · have hw : ∀ k, k < x.toNat + 1 → s.mayWrite (s.i.toNat + k) :=
      fun k hk => hmay k (Nat.le_of_lt_succ hk)
    have hblock : ∀ k, k < (s.firstRegs x).length → s.mayWrite (s.i.toNat + k) := by
      rwa [firstRegs_length]
    refine ⟨_, exec_storeRegs_of_mayWrite hw,
      firstRegs_length s x ▸ changesOnlyBytes_writeBlock hm hblock, fun r hr => ?_⟩
    have hlen : r.toNat < (s.firstRegs x).length := by
      rw [firstRegs_length]
      omega
    exact (get_writeBlock_add hm hblock hlen).trans (firstRegs_getElem_toNat s hlen)
  · simp only [exec, execStoreRegs,
      firstFailure_checkWrite_eq_some (Nat.lt_succ_of_le hk) hno hbefore]
    rfl

/-! ### Fx33 -/

/-- Fx33 over a block that may be written (R106). -/
theorem exec_ldB_of_mayWrite {x : Nibble} {s : State} (hw : ∀ k, k < 3 → s.mayWrite (s.i.toNat + k)) :
    exec (.ldB x) s = .next (s.setMem (s.mem.writeBlock s.i.toNat (bcdDigits (s.getV x)))) := by
  simp only [exec, execLdB, firstFailure_checkWrite_eq_none.mpr hw]

/-- The three digits as numbers: each fits its byte (R106). -/
theorem bcdDigits_getElem_toNat (b : Byte) (k : Nat) (h : k < (bcdDigits b).length) :
    (bcdDigits b)[k].toNat =
      if k = 0 then b.toNat / 100 else if k = 1 then b.toNat / 10 % 10 else b.toNat % 10 := by
  have hb := Laws.byte_le b
  rw [bcdDigits_getElem, BitVec.toNat_ofNat, Nat.mod_eq_of_lt]
  split
  · omega
  · split <;> omega

/-- The digits read back from a block that may be written (R106). -/
theorem get_writeBlock_bcdDigits {s : State} {base : Nat} (b : Byte) (hm : s.mem.wf = true)
    (hw : ∀ k, k < 3 → s.mayWrite (base + k)) (k : Nat) (hk : k < 3) :
    ((s.mem.writeBlock base (bcdDigits b)).get (base + k)).toNat =
      if k = 0 then b.toNat / 100 else if k = 1 then b.toNat / 10 % 10 else b.toNat % 10 := by
  rw [← bcdDigits_length b] at hw hk
  rw [get_writeBlock_add hm hw hk, bcdDigits_getElem_toNat]

/-- Settles O29: what `get_writeBlock_bcdDigits` says at the three distances from I, or the first failing
write check. -/
theorem bcdStore : Obligations.BcdStore := by
  refine ⟨encodedAs_of_encodeXKK_low fun _ => rfl,
    fun x s hm => ⟨fun hw => ?_, fun k hk hno hbefore => ⟨_, ?_, rfl⟩⟩⟩
  · have hdigit := get_writeBlock_bcdDigits (s.getV x) hm hw
    exact ⟨_, exec_ldB_of_mayWrite hw, changesOnlyBytes_writeBlock (bs := bcdDigits (s.getV x)) hm hw,
      hdigit 0 (by decide), hdigit 1 (by decide), hdigit 2 (by decide)⟩
  · simp only [exec, execLdB, firstFailure_checkWrite_eq_some hk hno hbefore]
    rfl

/-! ### Fx65 -/

/-- A register block load from memory: registers up to x take the bytes from I on, the others keep their
values (R108). -/
theorem getV_loadV_readBlock (s : State) (x r : Nibble) (m : Memory) (base : Nat) :
    ({ s with v := loadV s.v 0 (m.readBlock base (x.toNat + 1)) } : State).getV r =
      if r.toNat ≤ x.toNat then m.get (base + r.toNat) else s.getV r := by
  split
  · simp only [State.getV, loadV_getElem, Memory.readBlock_length]
    rw [dif_pos (by omega), Memory.readBlock_getElem, Nat.sub_zero]
  · exact getV_loadV_above s (Memory.readBlock_length _ _ _) (by omega)

/-- Settles O31: the read check of the whole block passes exactly when its last address is in memory. -/
theorem registerBlockLoad : Obligations.RegisterBlockLoad := by
  refine ⟨encodedAs_of_encodeXKK_low fun _ => rfl,
    fun x s => ⟨fun hin => ⟨_, ?_, rfl, fun r => getV_loadV_readBlock s x r s.mem s.i.toNat⟩,
      fun hout => ⟨_, ?_, rfl⟩⟩⟩
  · have hc : firstFailure checkRead s.i.toNat (x.toNat + 1) = none :=
      firstFailure_eq_none.mpr fun k hk => checkRead_eq_none.mpr (by omega)
    simp only [exec, execLoadRegs, hc]
  · simp only [exec, execLoadRegs, firstFailure_checkRead_eq_some (Nat.succ_pos x.toNat) hout]
    rfl

end Sys2Proof.Machine
end

section
/-! PROOFS. The key and timer family (spec/44_key_timer.md): the skips over a queried key, the timer moves, and
Fx0A with the `resume` that ends its wait (spec/60_exceptions.md R127). -/

namespace Sys2Proof.Machine

/-! ### Key skips -/

/-- The logical keys are 0x0-0xF (R125). -/
theorem keyWf_eq_true_iff {k : Nat} : keyWf k = true ↔ k ≤ 0xF := by
  simp [keyWf]

/-- Everything above is no logical key (R125, D13). -/
theorem keyWf_eq_false_iff {k : Nat} : keyWf k = false ↔ 0xF < k := by
  simp [keyWf]

/-- An instruction that queries a key and ends in `skipIf c` takes one answer and changes nothing else but pc
(R109, R110). -/
theorem exec_query_then_skip {i : Instr} {s : State} {k : Nibble} {c : Bool} {w : Word}
    (h : exec i s = .next ((s.queryKey k).2.skipIf c)) (hw : (if c then s.pc + 2 else s.pc) = w) :
    ∃ t, exec i s = .next t ∧ t.pc = w ∧ t = { s with pc := t.pc, inputs := t.inputs } ∧
      QueryTakenFrom s.inputs t.inputs := by
  refine ⟨_, h, ?_, ?_, queryKey_taken s k⟩
  · rw [State.skipIf_pc, State.queryKey_pc, hw]
  · rw [queryKey_frame]
    rfl

/-- Settles O39: the answer to the query decides both skips, and a byte that is no key is not queried. -/
theorem keySkips : Obligations.KeySkips := by
  refine ⟨encodedAs_of_encodeXKK_low fun _ => rfl, encodedAs_of_encodeXKK_low fun _ => rfl,
    fun x s => ⟨fun hkey => ?_, fun hbad => ?_⟩⟩
  · have hk := keyWf_eq_true_iff.mpr hkey
    refine ⟨_, queryKey_answers s _, exec_query_then_skip (if_pos hk) rfl,
      exec_query_then_skip (if_pos hk) ?_⟩
    cases (s.queryKey ((s.getV x).setWidth 4)).1 <;> rfl
  · have hk := ne_true_of_eq_false (keyWf_eq_false_iff.mpr hbad)
    exact ⟨⟨_, if_neg hk, rfl⟩, ⟨_, if_neg hk, rfl⟩⟩

/-! ### Timer moves -/

/-- Settles O40: Fx07 writes one register, the other two one timer. -/
theorem timerMoves : Obligations.TimerMoves :=
  ⟨encodedAs_of_encodeXKK_low fun _ => rfl, encodedAs_of_encodeXKK_low fun _ => rfl,
    encodedAs_of_encodeXKK_low fun _ => rfl,
    fun x s => ⟨exec_load rfl, ⟨s.setDT (s.getV x), rfl, rfl⟩, ⟨s.setST (s.getV x), rfl, rfl⟩⟩⟩

/-! ### Waiting for a key -/

/-- A key above 0xF is refused in every state (R127). -/
theorem resume_of_badKey (s : State) {k : Nat} (hk : 0xF < k) : s.resume k = .refused (.badKey k) := by
  simp only [State.resume, keyWf_eq_false_iff.mpr hk, Bool.not_false, if_true]

/-- A logical key ends the wait of a core with no fault recorded (R127). -/
theorem resume_of_waiting {s : State} {k : Nat} (hk : k ≤ 0xF) (hf : s.fault = none)
    (hr : s.run = .waitingForKey) :
    s.resume k = .next { s.setV s.waitX (BitVec.ofNat 8 k) with run := .running } := by
  simp only [State.resume, keyWf_eq_true_iff.mpr hk, hf, hr, Bool.not_true, Bool.false_eq_true, if_false]

/-- Settles O41: the register that `resume` writes is the one that Fx0A named. -/
theorem keyWaitAndResume : Obligations.KeyWaitAndResume := by
  refine ⟨encodedAs_of_encodeXKK_low fun _ => rfl, fun x s => ⟨_, rfl, rfl, fun hf k hk => ?_,
    fun k hk => resume_of_badKey _ hk⟩⟩
  refine ⟨_, resume_of_waiting hk hf rfl, ?_, fun r hr => State.getV_setV_other s _ hr, rfl⟩
  calc (State.getV _ x).toNat
    _ = (BitVec.ofNat 8 k).toNat := congrArg BitVec.toNat (State.getV_setV_same s x _)
    _ = k := by rw [BitVec.toNat_ofNat]; omega

end Sys2Proof.Machine
end

section
/-! PROOFS. The faults of one step (spec/60_exceptions.md R116-R124): which instruction may raise which, what
the record of a fault holds, and that a fault is recorded exactly when the core halts. -/

namespace Sys2Proof.Machine

/-! ### Outside Running (R130, R136, R137) -/

/-- A waiting core executes nothing (R137). -/
theorem step_of_waiting {s : State} (hf : s.fault = none) (hr : s.run = .waitingForKey) :
    step s = .next s := by
  simp only [step, hf, hr]

/-- A halted core has no step (R136). -/
theorem step_of_halted {s : State} (hf : s.fault = none) (hr : s.run = .halted) :
    step s = .fault (.halted none) := by
  simp only [step, hf, hr]

/-- Neither has a core with a fault recorded (R57, R136). -/
theorem step_of_fault {s : State} {r : FaultRecord} (hf : s.fault = some r) :
    step s = .fault (.halted (some r)) := by
  simp only [step, hf]

/-- Settles O9, by the three ways not to be Running. -/
theorem noInstructionOutsideRunning : Obligations.NoInstructionOutsideRunning :=
  ⟨fun _ => step_of_waiting, fun _ => step_of_halted, fun _ _ => step_of_fault⟩

/-! ### The instructions that raise a fault -/

/-- R123's table: the faults that an executing instruction raises, each with the instructions that may. -/
def RaisedBy (kind : FaultKind) (i : Instr) : Prop :=
  (kind = .stackUnderflow ∧ i = .ret) ∨
  (kind = .stackOverflow ∧ ∃ nnn, i = .call nnn) ∨
  (kind = .readOutOfRange ∧ ((∃ x y n, i = .drw x y n) ∨ ∃ x, i = .loadRegs x)) ∨
  ((kind = .writeOutOfRange ∨ kind = .writeProtected) ∧ ((∃ x, i = .ldB x) ∨ ∃ x, i = .storeRegs x)) ∨
  (kind = .invalidKey ∧ ((∃ x, i = .skp x) ∨ ∃ x, i = .sknp x))

/-- No instruction raises the fault of a fetch: it is raised instead of one (R120). -/
theorem RaisedBy.ne_fetchOutOfRange {kind : FaultKind} {i : Instr} (h : RaisedBy kind i) :
    kind ≠ .fetchOutOfRange := by
  rintro rfl
  simp [RaisedBy] at h

/-- A read check that fails raises `ReadOutOfRange` (R43). -/
theorem kind_of_firstFailure_checkRead {base n a : Nat} {kind : FaultKind}
    (h : firstFailure checkRead base n = some (kind, a)) : kind = .readOutOfRange := by
  obtain ⟨_, -, -, hc, -⟩ := firstFailure_eq_some.mp h
  exact (checkRead_eq_some.mp hc).1

/-- A write check that fails raises `WriteOutOfRange` or `WriteProtected` (R44). -/
theorem kind_of_firstFailure_checkWrite {p : Bool} {base n a : Nat} {kind : FaultKind}
    (h : firstFailure (checkWrite p) base n = some (kind, a)) :
    kind = .writeOutOfRange ∨ kind = .writeProtected := by
  obtain ⟨_, -, -, hc, -⟩ := firstFailure_eq_some.mp h
  exact (checkWrite_eq_some.mp hc).imp And.left And.left

/-- An instruction records no fault, or raises one that the table gives it. -/
theorem exec_fault_cases {i : Instr} {s t : State} (h : exec i s = .next t) :
    t.fault = s.fault ∨ ∃ kind addr, RaisedBy kind i ∧ t = s.raiseIn i kind addr := by
  cases i
  case ret =>
    obtain ⟨-, rfl⟩ | ⟨_, _, -, rfl⟩ := execRet_cases h
    · exact .inr ⟨_, _, by simp [RaisedBy], rfl⟩
    · exact .inl rfl
  case call nnn =>
    obtain ⟨-, rfl⟩ | ⟨-, rfl⟩ := execCall_cases h
    · exact .inr ⟨_, _, by simp [RaisedBy], rfl⟩
    · exact .inl rfl
  case drw x y n =>
    obtain ⟨_, _, hc, rfl⟩ | ⟨-, rfl⟩ := execDrw_cases h
    · exact .inr ⟨_, _, by simp [RaisedBy, kind_of_firstFailure_checkRead hc], rfl⟩
    · exact .inl rfl
  case loadRegs x =>
    obtain ⟨_, _, hc, rfl⟩ | ⟨-, rfl⟩ := execLoadRegs_cases h
    · exact .inr ⟨_, _, by simp [RaisedBy, kind_of_firstFailure_checkRead hc], rfl⟩
    · exact .inl rfl
  case ldB x =>
    obtain ⟨_, _, hc, rfl⟩ | ⟨-, rfl⟩ := execLdB_cases h
    · exact .inr ⟨_, _, by simp [RaisedBy, kind_of_firstFailure_checkWrite hc], rfl⟩
    · exact .inl rfl
  case storeRegs x =>
    obtain ⟨_, _, hc, rfl⟩ | ⟨-, rfl⟩ := execStoreRegs_cases h
    · exact .inr ⟨_, _, by simp [RaisedBy, kind_of_firstFailure_checkWrite hc], rfl⟩
    · exact .inl rfl
  case skp x =>
    obtain ⟨-, rfl⟩ | ⟨-, rfl⟩ := execSkp_cases h
    · exact .inr ⟨_, _, by simp [RaisedBy], rfl⟩
    · exact .inl (State.queryKey_fault s _)
  case sknp x =>
    obtain ⟨-, rfl⟩ | ⟨-, rfl⟩ := execSknp_cases h
    · exact .inr ⟨_, _, by simp [RaisedBy], rfl⟩
    · exact .inl (State.queryKey_fault s _)
  case rnd =>
    obtain rfl := Host.Outcome.next.inj h
    exact .inl (State.randomByte_fault s)
  all_goals obtain rfl := Host.Outcome.next.inj h; exact .inl rfl

/-! ### A step that records a fault -/

/-- The two ways a step records a fault (R116, R124): the fetch fails and pc stays; or a word is fetched, pc
advances, and the word decodes to nothing or to an instruction that raises. -/
theorem step_fault_cases {s t : State} {r : FaultRecord} (h : step s = .next t) (hr : t.fault = some r) :
    (0xFFE < s.pc.toNat ∧ t = s.raise r ∧ r.kind = .fetchOutOfRange ∧ r.pcOfInsn = s.pc ∧ r.word = none) ∨
      ∃ w, s.fetch = .word w ∧ t = s.advancePc.raise r ∧ r.pcOfInsn = s.pc ∧ r.word = some w ∧
        ((r.kind = .unknownOpcode ∧ decode w = none) ∨ ∃ i, decode w = some i ∧ RaisedBy r.kind i) := by
  obtain ⟨hf, ⟨-, rfl⟩ | ⟨-, addr, ho, rfl⟩ | ⟨-, w, hw, hdec, rfl⟩ | ⟨-, w, i, hw, hdec, hexec⟩⟩ :=
    step_cases h
  · simp [hf] at hr
  · obtain rfl := Option.some.inj hr
    obtain ⟨hpc, -⟩ | ⟨-, hw⟩ := fetch_cases s
    · exact .inl ⟨hpc, rfl, rfl, rfl, rfl⟩
    · simp [ho] at hw
  · obtain rfl := Option.some.inj hr
    exact .inr ⟨w, hw, rfl, rfl, rfl, .inl ⟨rfl, hdec⟩⟩
  · obtain hsame | ⟨kind, addr, hkind, rfl⟩ := exec_fault_cases hexec
    · simp [hsame, hf] at hr
    · obtain rfl := Option.some.inj hr
      have hpc : s.advancePc.insnAddr = s.pc := BitVec.add_sub_cancel s.pc 2
      exact .inr ⟨w, hw, rfl, hpc, congrArg some (encode_of_decode hdec), .inr ⟨i, hdec, hkind⟩⟩

/-- Settles O10: `raise` writes fault and run only, on `s` itself or after the PC advance. -/
theorem faultsArePrecise : Obligations.FaultsArePrecise := by
  intro s t r _ h hr
  obtain ⟨-, rfl, hkind, hpc, hword⟩ | ⟨w, hw, rfl, hpc, hword, hkind⟩ := step_fault_cases h hr
  · exact ⟨rfl, hpc, fun _ => ⟨rfl, hword⟩, fun hne => absurd hkind hne⟩
  · have hne : r.kind ≠ .fetchOutOfRange := by
      obtain ⟨hk, -⟩ | ⟨i, -, hk⟩ := hkind
      · simp [hk]
      · exact hk.ne_fetchOutOfRange
    exact ⟨rfl, hpc, fun hk => absurd hk hne, fun _ => ⟨rfl, w, hw, hword⟩⟩

/-- Settles O11: the first part is `step_fault_cases`, and the codes and classes are R123's table. -/
theorem faultsAreRaisedAsTheTableSays : Obligations.FaultsAreRaisedAsTheTableSays := by
  refine ⟨fun s t r _ h hr => ?_, rfl, fun k => by cases k <;> decide⟩
  obtain ⟨hpc, -, hkind, -⟩ | ⟨w, hw, -, -, -, ⟨hkind, hdec⟩ | ⟨i, hdec, hkind⟩⟩ := step_fault_cases h hr
  · exact .inl ⟨hkind, hpc⟩
  · exact .inr (.inl ⟨hkind, w, hw, hdec⟩)
  · exact .inr (.inr ⟨w, i, hw, hdec, hkind⟩)

/-! ### A fault is recorded exactly when the core halts (R25, R28, R116) -/

/-- The clause `faultHalts` of `State.Inv`, as a predicate of its own: alone it is kept by every step, from
any memory, stack and pc. -/
def State.FaultHalts (s : State) : Prop :=
  s.fault.isSome = true ↔ s.run = .halted

/-- An unfaulted core that is not halted. -/
theorem State.FaultHalts.of_none {s : State} (hf : s.fault = none) (hr : s.run ≠ .halted) :
    s.FaultHalts := by
  simp [State.FaultHalts, hf, hr]

/-- Raising a fault records it and halts, together (R116). -/
theorem State.FaultHalts.raise (s : State) (r : FaultRecord) : (s.raise r).FaultHalts := by
  simp [State.FaultHalts]

/-- A Running core has no fault recorded. -/
theorem State.FaultHalts.fault_of_running {s : State} (hs : s.FaultHalts) (hr : s.run = .running) :
    s.fault = none := by
  simpa [State.FaultHalts, hr] using hs

/-- A step records a fault exactly if it halts: of the effects of an instruction only a raise and a wait write
`run`, and a wait starts unfaulted. -/
theorem step_keeps_faultHalts {s t : State} (hs : s.FaultHalts) (h : step s = .next t) :
    t.FaultHalts := by
  obtain ⟨hf, ⟨-, rfl⟩ | ⟨-, _, -, rfl⟩ | ⟨-, _, -, -, rfl⟩ | ⟨-, _, i, -, -, hexec⟩⟩ := step_cases h
  · exact hs
  · exact .raise _ _
  · exact .raise _ _
  · cases exec_effect hexec with
    | raise _ _ => exact .raise _ _
    | wait _ _ => exact .of_none hf (by simp)
    | _ => exact hs

end Sys2Proof.Machine
end

section
/-! PROOFS. The timer unit and the host's operations (spec/60_exceptions.md R127-R133): the tick, the batch and
the cycle that it is part of, resume, and what every operation of the host keeps. -/

namespace Sys2Proof.Machine

/-! ### Replies (R133) -/

/-- An operation that hands nothing back answers its next state. -/
theorem withoutReply_eq_next {o : Host.Outcome State Fault Refusal} {t : State} {reply : Reply} :
    withoutReply o = .next (t, reply) ↔ o = .next t ∧ reply = .done := by
  cases o <;> simp [withoutReply, eq_comm]

/-! ### Resume (R127) -/

/-- A logical key changes nothing in a Running core (D17). -/
theorem resume_of_running {s : State} {k : Nat} (hk : k ≤ 0xF) (hf : s.fault = none)
    (hr : s.run = .running) : s.resume k = .next s := by
  simp only [State.resume, keyWf_eq_true_iff.mpr hk, hf, hr, Bool.not_true, Bool.false_eq_true, if_false]

/-- With a fault recorded a logical key is not taken (R127, R136). -/
theorem resume_of_fault {s : State} {k : Nat} {r : FaultRecord} (hk : k ≤ 0xF) (hf : s.fault = some r) :
    s.resume k = .fault (.halted (some r)) := by
  simp only [State.resume, keyWf_eq_true_iff.mpr hk, hf, Bool.not_true, Bool.false_eq_true, if_false]

/-- Everything a resume that answers does: end the wait of an unfaulted core, or nothing. -/
theorem resume_cases {s t : State} {k : Nat} (h : s.resume k = .next t) :
    (s.fault = none ∧ t = { s.setV s.waitX (BitVec.ofNat 8 k) with run := .running }) ∨ t = s := by
  unfold State.resume at h
  split at h
  · cases h
  · split at h
    · cases h
    · cases h
    · exact .inl ⟨‹_›, (Host.Outcome.next.inj h).symm⟩
    · exact .inr (Host.Outcome.next.inj h).symm

/-- Settles O59, by `resume_of_running`; the host gets no reply. -/
theorem resumeWhileRunningChangesNothing : Obligations.ResumeWhileRunningChangesNothing := by
  intro s k hf hr hk
  have h := resume_of_running hk hf hr
  exact ⟨h, withoutReply_eq_next.mpr ⟨h, rfl⟩⟩

/-! ### Ticks (R129) -/

/-- The n-th tick has taken n off a timer, cut off at 0. -/
theorem tickTimer_iterate_toNat (n : Nat) (b : Byte) : (tickTimer^[n] b).toNat = b.toNat - n := by
  induction n with
  | zero => rfl
  | succ n ih => rw [Function.iterate_succ_apply', tickTimer_toNat, ih, Nat.sub_sub]

/-- Ticks count each timer by itself and change nothing else. -/
theorem tick_iterate (n : Nat) (s : State) :
    State.tick^[n] s = { s with dt := tickTimer^[n] s.dt, st := tickTimer^[n] s.st } := by
  induction n with
  | zero => rfl
  | succ n ih => simp only [Function.iterate_succ_apply', ih, State.tick]

/-- No instruction but Fx15 changes DT (R24). -/
theorem exec_dt {i : Instr} {s t : State} (h : exec i s = .next t) (hi : ∀ x, i ≠ .ldDTVx x) :
    t.dt = s.dt := by
  cases exec_effect h with
  | delay x hx => exact absurd hx (hi x)
  | _ => rfl

/-- No instruction but Fx18 changes ST (R24). -/
theorem exec_st {i : Instr} {s t : State} (h : exec i s = .next t) (hi : ∀ x, i ≠ .ldSTVx x) :
    t.st = s.st := by
  cases exec_effect h with
  | sound x hx => exact absurd hx (hi x)
  | _ => rfl

/-- A field that the PC advance and a raise leave alone, and the executed instruction too, is left alone by the
step (R57). -/
theorem step_field_eq {α : Type} (f : State → α) {s t : State} (h : step s = .next t)
    (hadv : ∀ u : State, f u.advancePc = f u) (hraise : ∀ (u : State) r, f (u.raise r) = f u)
    (hexec : ∀ w i u, s.fetch = .word w → decode w = some i → exec i u = .next t → f t = f u) :
    f t = f s := by
  obtain ⟨-, ⟨-, rfl⟩ | ⟨-, _, -, rfl⟩ | ⟨-, _, -, -, rfl⟩ | ⟨-, w, i, hw, hdec, h⟩⟩ := step_cases h
  · rfl
  · exact hraise _ _
  · exact (hraise _ _).trans (hadv s)
  · exact (hexec w i _ hw hdec h).trans (hadv s)

/-- Settles O42. The ticks are `tick_iterate`; a resume that ends a wait writes a register and `run`. -/
theorem ticksCountDownToZero : Obligations.TicksCountDownToZero := by
  refine ⟨fun n s => ?_, fun i s t h => ⟨exec_dt h, exec_st h⟩, fun s t h => ⟨fun hw => ?_, fun hw => ?_⟩,
    fun op s t reply h hcycle hreset => ?_⟩
  · rw [tick_iterate]
    exact ⟨tickTimer_iterate_toNat n s.dt, tickTimer_iterate_toNat n s.st, rfl⟩
  · refine step_field_eq State.dt h State.advancePc_dt State.raise_dt fun w i u hf hd he => ?_
    exact exec_dt he fun x hx => hw x w hf (hx ▸ hd)
  · refine step_field_eq State.st h State.advancePc_st State.raise_st fun w i u hf hd he => ?_
    exact exec_st he fun x hx => hw x w hf (hx ▸ hd)
  · cases op with
    | reset p font rom => exact absurd rfl (hreset p font rom)
    | cycle b => exact absurd rfl (hcycle b)
    | resume k =>
      obtain ⟨-, rfl⟩ | rfl := resume_cases (withoutReply_eq_next.mp h).1 <;> exact ⟨rfl, rfl⟩
    | render | readFault | answerKey _ | answerByte _ => cases h; exact ⟨rfl, rfl⟩

/-! ### Batches (R130) -/

/-- A batch that starts outside Running executes nothing. -/
theorem runBatch_of_not_running {s : State} (b : Nat) (hr : s.run ≠ .running) :
    runBatch b s = .next s := by
  cases b with
  | zero => rfl
  | succ b =>
    unfold runBatch
    split
    · exact absurd ‹_› hr
    · rfl

/-- A batch of a Running core is its step and then the rest of the batch. -/
theorem runBatch_succ {s t : State} (b : Nat) (hr : s.run = .running) (h : step s = .next t) :
    runBatch (b + 1) s = runBatch b t := by
  simp only [runBatch, hr, h]

/-- What every step keeps, a batch keeps. -/
theorem runBatch_keeps {P : State → Prop} (hstep : ∀ s t, P s → step s = .next t → P t) {b : Nat}
    {s t : State} (hs : P s) (h : runBatch b s = .next t) : P t := by
  induction b generalizing s with
  | zero => exact Host.Outcome.next.inj h ▸ hs
  | succ b ih =>
    unfold runBatch at h
    split at h
    · split at h
      · exact ih (hstep _ _ hs ‹_›) h
      · cases h
      · cases h
    · exact Host.Outcome.next.inj h ▸ hs

/-- Every batch answers, since a step that leaves the core Running leaves it unfaulted. -/
theorem runBatch_next (b : Nat) {s : State} (hs : s.FaultHalts) : ∃ t, runBatch b s = .next t := by
  induction b generalizing s with
  | zero => exact ⟨s, rfl⟩
  | succ b ih =>
    by_cases hr : s.run = .running
    · obtain ⟨u, hu⟩ := step_next (hs.fault_of_running hr) (by simp [hr])
      rw [runBatch_succ b hr hu]
      exact ih (step_keeps_faultHalts hs hu)
    · exact ⟨s, runBatch_of_not_running _ hr⟩

/-! ### Cycles (R130, R131) -/

/-- The end of a cycle whose batch leaves the core Running: a tick, then the sound signal. -/
theorem finishCycle_of_running {s : State} (hf : s.fault = none) (hr : s.run = .running) :
    finishCycle s = (s.tick, .cycleDone (decide (0 < s.tick.st.toNat))) := by
  simp only [finishCycle, hf, hr, if_true]
  rfl

/-- The end of a cycle whose batch leaves the core waiting: the sound signal and no tick. -/
theorem finishCycle_of_waiting {s : State} (hf : s.fault = none) (hr : s.run = .waitingForKey) :
    finishCycle s = (s, .cycleDone (decide (0 < s.st.toNat))) := by
  simp only [finishCycle, hf, hr, reduceCtorEq, if_false]
  rfl

/-- The end of a cycle whose batch raised a fault: its record (D18). -/
theorem finishCycle_of_fault {s : State} {r : FaultRecord} (hf : s.fault = some r) :
    finishCycle s = (s, .faulted r) := by
  simp only [finishCycle, hf]

/-- The end of a cycle changes nothing, or ticks. -/
theorem finishCycle_fst (s : State) : (finishCycle s).1 = s ∨ (finishCycle s).1 = s.tick := by
  unfold finishCycle
  split
  · exact .inl rfl
  · by_cases hr : s.run = .running
    · exact .inr (if_pos hr)
    · exact .inl (if_neg hr)

/-- A core that is neither faulted nor halted cycles as its batch does. -/
theorem cycle_of_runBatch {s t : State} {b : Nat} (hf : s.fault = none) (hr : s.run ≠ .halted)
    (h : runBatch b s = .next t) : s.cycle b = .next (finishCycle t) := by
  cases hrun : s.run with
  | halted => exact absurd hrun hr
  | running | waitingForKey => simp only [State.cycle, hf, hrun, h]

/-- With a fault recorded there is no cycle (R130, D27). -/
theorem cycle_of_fault {s : State} {r : FaultRecord} (b : Nat) (hf : s.fault = some r) :
    s.cycle b = .fault (.halted (some r)) := by
  simp only [State.cycle, hf]

/-- A cycle that answers has run its batch and ended. -/
theorem cycle_cases {s : State} {b : Nat} {p : State × Reply} (h : s.cycle b = .next p) :
    ∃ t, runBatch b s = .next t ∧ p = finishCycle t := by
  unfold State.cycle at h
  split at h
  · cases h
  · cases h
  · split at h
    · exact ⟨_, ‹_›, (Host.Outcome.next.inj h).symm⟩
    · cases h
    · cases h

/-- Settles O44: a batch outside Running is empty, so a waiting core's cycle only signals the sound. -/
theorem batchStopsWhenNotRunning : Obligations.BatchStopsWhenNotRunning := by
  refine ⟨fun s => rfl, fun b s t hr h => ⟨fun _ => runBatch_succ b hr h, fun ht => ?_⟩,
    fun b s hf hr => ?_⟩
  · rw [runBatch_succ b hr h, runBatch_of_not_running b ht]
  · have hbatch := runBatch_of_not_running b (s := s) (by simp [hr])
    rw [cycle_of_runBatch hf (by simp [hr]) hbatch, finishCycle_of_waiting hf hr]

/-- Settles O43: the batch answers by `runBatch_next` and, a fault being recorded exactly when the core halts,
leaves it in one of the three states. -/
theorem cycleIsBatchThenTick : Obligations.CycleIsBatchThenTick := by
  intro b s hf hr
  have hs : s.FaultHalts := .of_none hf hr
  obtain ⟨t, ht⟩ := runBatch_next b hs
  have hcycle := cycle_of_runBatch hf hr ht
  have htf : t.FaultHalts := runBatch_keeps (fun _ _ => step_keeps_faultHalts) hs ht
  refine ⟨t, ht, fun hf' hr' => ?_, fun hf' hr' => ?_, fun r hf' => ⟨htf.mp (by simp [hf']), ?_⟩⟩
  · rw [hcycle, finishCycle_of_running hf' hr']
  · rw [hcycle, finishCycle_of_waiting hf' hr']
  · rw [hcycle, finishCycle_of_fault hf']

/-- Settles O45, by the three ends that `cycleIsBatchThenTick` gives; a batch that raised no fault did not halt. -/
theorem everyCycleAnswers : Obligations.EveryCycleAnswers := by
  intro b s hsafe
  obtain ⟨hf, hr⟩ : s.fault = none ∧ s.run ≠ .halted := by simpa [State.safe] using hsafe
  obtain ⟨t, ht, hrunning, hwaiting, hfault⟩ := cycleIsBatchThenTick b s hf hr
  have htf : t.FaultHalts := runBatch_keeps (fun _ _ => step_keeps_faultHalts) (.of_none hf hr) ht
  cases hf' : t.fault with
  | some r => exact ⟨t, _, (hfault r hf').2, .inr ⟨r, rfl, hf'⟩⟩
  | none =>
    cases hr' : t.run with
    | running => exact ⟨t.tick, _, hrunning hf' hr', .inl ⟨_, rfl, hf'⟩⟩
    | waitingForKey => exact ⟨t, _, hwaiting hf' hr', .inl ⟨_, rfl, hf'⟩⟩
    | halted => simp [State.FaultHalts, hf', hr'] at htf

/-! ### What every operation of the host does -/

/-- Settles O46: with a fault recorded, only the reads and a reset answer. -/
theorem haltedIsTerminalButForReset : Obligations.HaltedIsTerminalButForReset := by
  intro s r hf
  refine ⟨step_of_fault hf, fun b => cycle_of_fault b hf, fun k hk => ?_, ⟨_, rfl⟩, ?_,
    fun p font rom hrom hfont hp => ?_⟩
  · simp only [hostStep, resume_of_fault hk hf, withoutReply]
  · simp only [hostStep, hf]
  · exact ⟨_, withoutReply_eq_next.mpr ⟨resetWith_next hrom hfont hp, rfl⟩, rfl, rfl⟩

/-- A cycle keeps the invariant: its steps do (O57), and the tick after them writes the timers only. -/
theorem cycle_keeps_inv {s t : State} {reply : Reply} {b : Nat} (hs : s.Inv)
    (h : s.cycle b = .next (t, reply)) : t.Inv := by
  obtain ⟨u, hu, hfinish⟩ := cycle_cases h
  have hinv : u.Inv := runBatch_keeps stepKeepsTheInvariant hs hu
  obtain rfl : t = (finishCycle u).1 := congrArg Prod.fst hfinish
  obtain hsame | htick := finishCycle_fst u
  · rwa [hsame]
  · rw [htick]
    exact hinv.congr rfl rfl rfl rfl rfl rfl

/-- A resume keeps the invariant: it ends the wait of an unfaulted core, which is then Running. -/
theorem resume_keeps_inv {s t : State} {k : Nat} (hs : s.Inv) (h : s.resume k = .next t) : t.Inv := by
  obtain ⟨hf, rfl⟩ | rfl := resume_cases h
  · exact { hs with faultHalts := by simp [hf] }
  · exact hs

/-- Settles O58, operation by operation; the reset is `resetMeetsTheInvariant`. -/
theorem hostOperationsKeepTheInvariant : Obligations.HostOperationsKeepTheInvariant := by
  intro op s t reply hs h
  cases op with
  | reset p font rom => exact resetMeetsTheInvariant.2 s t p font rom (withoutReply_eq_next.mp h).1
  | cycle b => exact cycle_keeps_inv hs h
  | resume k => exact resume_keeps_inv hs (withoutReply_eq_next.mp h).1
  | render | readFault => cases h; exact hs
  | answerKey _ | answerByte _ => cases h; exact hs.congr rfl rfl rfl rfl rfl rfl

end Sys2Proof.Machine
end

section
/-! PROOFS. Reset (spec/70_reset_and_hazards.md R142-R144): which arguments start a session, and the state
that the session starts in. -/

namespace Sys2Proof

/-! ### The arguments that a reset accepts -/

/-- A ROM fits when it has at most 3584 bytes (R144). -/
theorem romWf_iff {rom : List Byte} : romWf rom = true ↔ rom.length ≤ 3584 := decide_eq_true_iff

/-- A font table is 80 bytes (R6). -/
theorem fontWf_iff {font : List Byte} : fontWf font = true ↔ font.length = 80 := beq_iff_eq

/-- The stack depth of the parameters is positive or unbounded (R7). -/
theorem Params.wf_iff {p : Params} : p.wf = true ↔ p.stackDepth ≠ some 0 := bne_iff_ne

namespace Machine

/-- A reset starts a session exactly for the arguments that the checks pass. -/
theorem exists_resetWith_next_iff {s : State} {p : Params} {font rom : List Byte} :
    (∃ t, s.resetWith p font rom = .next t) ↔
      romWf rom = true ∧ fontWf font = true ∧ p.wf = true := by
  constructor
  · rintro ⟨t, h⟩
    obtain ⟨hrom, hfont, hp, -⟩ := resetWith_cases h
    exact ⟨hrom, hfont, hp⟩
  · rintro ⟨hrom, hfont, hp⟩
    exact ⟨_, resetWith_next hrom hfont hp⟩

/-! ### Memory after a reset -/

/-- `Memory.get_writeBlock` with the byte inside the block, and the old byte past its end, read by
`getD`. -/
theorem Memory.get_writeBlock_getD {m : Memory} (hm : m.wf = true) {base : Nat} {bs : List Byte}
    (h : base + bs.length ≤ Config.memSize) (a : Nat) :
    (m.writeBlock base bs).get a =
      if base ≤ a then bs.getD (a - base) (m.get a) else m.get a := by
  rw [Memory.get_writeBlock hm (.inr h)]
  by_cases hbase : base ≤ a
  · by_cases hend : a - base < bs.length
    · rw [dif_pos ⟨hbase, hend⟩, if_pos hbase, List.getD_eq_getElem _ _ hend]
    · rw [dif_neg (fun hin => hend hin.2), if_pos hbase, List.getD_eq_default _ _ (by omega)]
  · rw [dif_neg (fun hin => hbase hin.1), if_neg hbase]

/-- The font is at 0x000, the ROM at 0x200, and every other byte is zero (R142): past its 80 bytes the
font uncovers only unlisted addresses, which read as zero there. -/
theorem resetState_mem_get {p : Params} {font rom : List Byte} (hrom : rom.length ≤ 3584)
    (hfont : font.length = 80) (a : Nat) :
    (resetState p font rom).mem.get a =
      if a < 80 then font.getD a 0
      else if 0x200 ≤ a then rom.getD (a - 0x200) 0
      else 0 := by
  have hfits : 0 + font.length ≤ Config.memSize := by simp only [hfont, Config.memSize]; omega
  have hromFits : Config.programStart + rom.length ≤ Config.memSize := by
    simp only [Config.programStart, Config.memSize]; omega
  have hfontGet : (Memory.writeBlock [] 0 font).get a = if a < 80 then font.getD a 0 else 0 := by
    rw [Memory.get_writeBlock_getD Memory.wf_nil hfits, if_pos (Nat.zero_le a), Nat.sub_zero]
    by_cases ha : a < 80
    · rw [if_pos ha, List.getD_eq_getElem _ _ (by omega), List.getD_eq_getElem _ _ (by omega)]
    · rw [if_neg ha, List.getD_eq_default _ _ (by omega)]
      exact resetByte_of_ge (by omega)
  have hfontWf : (Memory.writeBlock [] 0 font).wf = true := Memory.writeBlock_wf Memory.wf_nil (.inr hfits)
  calc (resetState p font rom).mem.get a
      = if 0x200 ≤ a then rom.getD (a - 0x200) ((Memory.writeBlock [] 0 font).get a)
        else (Memory.writeBlock [] 0 font).get a := Memory.get_writeBlock_getD hfontWf hromFits a
    _ = _ := by
      rw [hfontGet]
      by_cases ha : a < 80
      · rw [if_neg (by omega), if_pos ha, if_pos ha]
      · rw [if_neg ha, if_neg ha]

/-! ### The state after a reset -/

/-- Every register is zero in the interface's reset state (R32). -/
@[simp] theorem getV_reset (r : Nibble) : State.reset.getV r = 0 := Vector.getElem_replicate _

/-- The default parameters, the default font and no ROM give the interface's reset state: the default
font is what the unlisted addresses read as, so no cell is listed. -/
theorem resetState_default : resetState defaultParams defaultFont [] = State.reset := by
  have hmem : Memory.writeBlock [] 0 defaultFont = [] := by decide
  rw [resetState, hmem]
  rfl

/-- Settles O13: the three checks are the stated conditions, the bytes are `resetState_mem_get`, and every
field but memory, the parameters and the draws is that of the interface's reset state. -/
theorem resetLoadsFontAndRom : Obligations.ResetLoadsFontAndRom := by
  refine fun s p font rom => ⟨?_, fun t h => ?_⟩
  · rw [exists_resetWith_next_iff, romWf_iff, fontWf_iff, Params.wf_iff]
  · obtain ⟨hrom, hfont, -, rfl⟩ := resetWith_cases h
    exact ⟨resetState_mem_get (p := p) (romWf_iff.mp hrom) (fontWf_iff.mp hfont), getV_reset, rfl, rfl, rfl,
      rfl, rfl, rfl, rfl, cell_clearedFb, rfl, rfl, rfl⟩

/-- Settles O14: the arguments pass the checks, and the state is `resetState_default`; nothing is lined
up before the reset, so nothing goes on through it. -/
theorem interfaceResetIsAReset : Obligations.InterfaceResetIsAReset := by
  rw [Obligations.InterfaceResetIsAReset, resetWith_next (by decide) (by decide) (by decide),
    resetState_default]

end Machine

end Sys2Proof
end
